-- ==== Sys2Proof/Word.lean ====
section
/-! DEFINITION. The word types of the sequencer (spec/00_scope.md R9, R12): every quantity is unsigned. -/

namespace Sys2Proof

/-- A byte: the element of every buffer, and the width `CW` = `SW` = 8 of cursors, lengths, counts and status codes (R9). -/
abbrev Byte := BitVec 8

/-- A device address, `AW` = 10 bits, never interpreted (R9, R23). -/
abbrev DevAddr := BitVec 10

/-- A command word (R92). It is one unit on its port and has no byte order (R65). -/
abbrev CmdWord := BitVec 32

/-- A response word (R97). -/
abbrev RespWord := BitVec 16

end Sys2Proof
end

