-- ==== Sys2Proof/Syntax.lean ====
section
/-! DEFINITION. The eight commands (spec/30_encoding.md R94), one constructor for each row of spec/opcode_table.json. -/

namespace Sys2Proof

/-- A command with its operands, each of the width its field has (R92, R93). -/
inductive Instr where
  /-- BEGIN: `begin(selfAddress)` (R120). -/
  | begin (addr : DevAddr)
  /-- BEGINTX: `beginTransmission(address)` (R131). -/
  | beginTx (addr : DevAddr)
  /-- WRITE: `write(byte)` (R133). -/
  | write (data : Byte)
  /-- ENDTX: `endTransmission(sendStop)` (R136). -/
  | endTx (sendStop : Bool)
  /-- REQ: `requestFrom(address, numBytes)` (R151). -/
  | req (addr : DevAddr) (num : Byte)
  /-- REQREG: `requestFromRegister(address, registerValue, numBytes)` (R155). -/
  | reqReg (addr : DevAddr) (reg num : Byte)
  /-- AVAIL: `available()` (R170). -/
  | avail
  /-- READ: `read()` (R172). -/
  | read
  deriving DecidableEq, Repr

end Sys2Proof
end

