-- ==== Sys2Proof/Decode.lean ====
section
/-! DEFINITION. The command word: its fields, decoding, encoding, and the match and mask of each row
(spec/30_encoding.md R92 to R96). -/

namespace Sys2Proof

/-- The six fields of a command word, one layout for every command (R92). -/
structure Fields where
  op   : BitVec 4
  num  : Byte
  data : Byte
  s    : BitVec 1
  z    : BitVec 1
  addr : DevAddr
  deriving DecidableEq, Repr

/-- The fields of a word: OP[31:28] NUM[27:20] DATA[19:12] S[11] Z[10] ADDR[9:0] (R92). -/
def unpack (w : CmdWord) : Fields where
  op   := w.extractLsb' 28 4
  num  := w.extractLsb' 20 8
  data := w.extractLsb' 12 8
  s    := w.extractLsb' 11 1
  z    := w.extractLsb' 10 1
  addr := w.extractLsb' 0 10

/-- The word that has these fields: `oooo nnnnnnnn dddddddd s z aaaaaaaaaa` (R92). -/
def pack (f : Fields) : CmdWord :=
  f.op ++ f.num ++ f.data ++ f.s ++ f.z ++ f.addr

/-- Why a word encodes no command (R96). -/
inductive Illegal where
  /-- `OP` is 0 or 9 to 15. -/
  | reservedOpcode (op : BitVec 4)
  /-- A defined opcode with a nonzero bit in a field the command does not use, or with bit 10 set (R95). -/
  | nonzeroUnusedField (op : BitVec 4)
  deriving DecidableEq, Repr

/-- The command `i` if the fields it does not use are zero, else the refusal of R95. -/
def ifUnusedZero (op : BitVec 4) (unusedZero : Bool) (i : Instr) : Except Illegal Instr :=
  if unusedZero then .ok i else .error (.nonzeroUnusedField op)

/-- The opcode map with its must-be-zero fields (R94, R95). Total: every other value of `OP` is reserved (R96). -/
def decodeFields (f : Fields) : Except Illegal Instr :=
  match f.op.toNat with
  | 1 => ifUnusedZero f.op (f.num == 0 && f.data == 0 && f.s == 0 && f.z == 0) (.begin f.addr)
  | 2 => ifUnusedZero f.op (f.num == 0 && f.data == 0 && f.s == 0 && f.z == 0) (.beginTx f.addr)
  | 3 => ifUnusedZero f.op (f.num == 0 && f.s == 0 && f.z == 0 && f.addr == 0) (.write f.data)
  | 4 => ifUnusedZero f.op (f.num == 0 && f.data == 0 && f.z == 0 && f.addr == 0) (.endTx (f.s == 1))
  | 5 => ifUnusedZero f.op (f.data == 0 && f.s == 0 && f.z == 0) (.req f.addr f.num)
  | 6 => ifUnusedZero f.op (f.s == 0 && f.z == 0) (.reqReg f.addr f.data f.num)
  | 7 => ifUnusedZero f.op (f.num == 0 && f.data == 0 && f.s == 0 && f.z == 0 && f.addr == 0) .avail
  | 8 => ifUnusedZero f.op (f.num == 0 && f.data == 0 && f.s == 0 && f.z == 0 && f.addr == 0) .read
  | _ => .error (.reservedOpcode f.op)

/-- Decoding a command word: a command, or the reason it encodes none (R94 to R96). -/
def decode (w : CmdWord) : Except Illegal Instr := decodeFields (unpack w)

/-- The fields of a command; the ones it does not use are zero (R94). -/
def encodeFields : Instr → Fields
  | .begin a => { op := 1, num := 0, data := 0, s := 0, z := 0, addr := a }
  | .beginTx a => { op := 2, num := 0, data := 0, s := 0, z := 0, addr := a }
  | .write b => { op := 3, num := 0, data := b, s := 0, z := 0, addr := 0 }
  | .endTx stop => { op := 4, num := 0, data := 0, s := BitVec.ofBool stop, z := 0, addr := 0 }
  | .req a n => { op := 5, num := n, data := 0, s := 0, z := 0, addr := a }
  | .reqReg a r n => { op := 6, num := n, data := r, s := 0, z := 0, addr := a }
  | .avail => { op := 7, num := 0, data := 0, s := 0, z := 0, addr := 0 }
  | .read => { op := 8, num := 0, data := 0, s := 0, z := 0, addr := 0 }

/-- The word of a command (R92, R94). -/
def encode (i : Instr) : CmdWord := pack (encodeFields i)

/-- The rows of the opcode map (R94), without operands. -/
inductive Opcode where
  | begin | beginTx | write | endTx | req | reqReg | avail | read
  deriving DecidableEq, Repr

/-- The row a command belongs to. -/
def Instr.opcode : Instr → Opcode
  | .begin _ => .begin
  | .beginTx _ => .beginTx
  | .write _ => .write
  | .endTx _ => .endTx
  | .req _ _ => .req
  | .reqReg _ _ _ => .reqReg
  | .avail => .avail
  | .read => .read

/-- The column "match" of R94. -/
def Opcode.matchBits : Opcode → CmdWord
  | .begin => 0x10000000#32
  | .beginTx => 0x20000000#32
  | .write => 0x30000000#32
  | .endTx => 0x40000000#32
  | .req => 0x50000000#32
  | .reqReg => 0x60000000#32
  | .avail => 0x70000000#32
  | .read => 0x80000000#32

/-- The column "mask" of R94. -/
def Opcode.maskBits : Opcode → CmdWord
  | .begin => 0xFFFFFC00#32
  | .beginTx => 0xFFFFFC00#32
  | .write => 0xFFF00FFF#32
  | .endTx => 0xFFFFF7FF#32
  | .req => 0xF00FFC00#32
  | .reqReg => 0xF0000C00#32
  | .avail => 0xFFFFFFFF#32
  | .read => 0xFFFFFFFF#32

/-- The host's question: the command this decoder reads from an instruction of `nbits` bits numbered as
spec/opcode_table.json numbers them. A command is one 32-bit unit with no byte order (R65, R92), so the number IS the word;
bits above `nbits` are zero, and a number of more than 32 bits is no command word (log 14). -/
def decodeTableWord (nbits w : Nat) : Option Instr :=
  if w % 2 ^ nbits < 2 ^ 32 then
    match decode (BitVec.ofNat 32 (w % 2 ^ nbits)) with
    | .ok i => some i
    | .error _ => none
  else none

end Sys2Proof
end

