-- ==== Sys2Proof/Config.lean ====
section
/-! DEFINITION. What one instance of the hardware fixes (spec/00_scope.md R8 to R10) and the free values of the spec. -/

namespace Sys2Proof

/-- The open parameters of an instance (R8, R10; 92_eei_decisions.md D9, D12). They never change while it lives.
The eight bits of `capacity` are the bound `CAPACITY <= 255` of R8. -/
structure Params where
  /-- `CAPACITY`, the bytes of each buffer. -/
  capacity : Byte
  /-- The status code `SUCCESS`; no rule compares anything with it (R188). -/
  success  : Byte
  /-- The status code `EDATA`, the only one the sequencer itself produces (R188). -/
  edata    : Byte
  deriving DecidableEq, Repr

/-- The constraints of R8 and R10: `1 <= CAPACITY`, `SUCCESS != EDATA`. -/
def Params.wf (p : Params) : Bool :=
  p.capacity != 0 && p.success != p.edata

/-- The defaults the spec gives its parameters (R8, R10). DESIGN CHOICE (log 1): `State.reset` is the instance that has them. -/
def Params.default : Params := { capacity := 32, success := 0x00, edata := 0x01 }

/-- FREE VALUE (R43, 93_implementation_defined.md U3; log 2): the byte that index `i` of `tx_buf` holds after the hardware
reset number `epoch` until something writes it. It has no body: nothing can be proved about its value. -/
opaque Config.unwrittenTx (epoch i : Nat) : Byte

/-- FREE VALUE (R43, U3; log 2): as `unwrittenTx`, for `rx_buf`. -/
opaque Config.unwrittenRx (epoch i : Nat) : Byte

/-- FREE VALUE (20_memory.md R69, U10; log 3): the byte the engine buffer port answers to the read number `n` among those
that are not admitted. -/
opaque Config.unadmittedRead (n : Nat) : Byte

end Sys2Proof
end

