-- ==== Sys2Proof/Machine/State.lean ====
section
/-! DEFINITION. The state of the sequencer (spec/10_state.md R20 to R44), its ports, its inputs, and reset (R42, R230). -/

namespace Sys2Proof.Machine

open Sys2Proof

/-- The four space codes of `view.space` (10_state.md R24, 20_memory.md R60): 0 TX, 1 RX, 2 REG, 3 reserved (log 9). -/
inductive Space where
  | tx | rx | reg | reserved
  deriving DecidableEq, Repr

/-- `desc[k].flags`, one bit: 0 WRITE, 1 READ (R25; log 9). -/
inductive Flag where
  | write | read
  deriving DecidableEq, Repr

/-- `desc_count`, a register that only ever holds 1 or 2 (R29; log 9). -/
inductive DescCount where
  | one | two
  deriving DecidableEq, Repr

/-- A view: the hardware form of the source's `dataPointer` (R24). -/
structure View where
  space  : Space
  offset : Byte
  deriving DecidableEq, Repr

/-- A message descriptor (R22). -/
structure Descriptor where
  address : DevAddr
  view    : View
  length  : Byte
  xferred : Byte
  flags   : Flag
  deriving DecidableEq, Repr

/-- The bytes of a buffer that something has written, by index (R30, R33). Canonical form: `Memory.wf`. An index that is
not listed has not been written since reset; what it reads as is `txByte` and `rxByte` of Ops.lean (R43; log 2). -/
abbrev Memory := List Host.Cell

/-- The causes of a machine fault, in the order of their bits in `fault` (R39, 60_exceptions.md R201). -/
inductive Cause where
  /-- Bit 0 VIEW: a view out of bounds at dispatch (R204). -/
  | view
  /-- Bit 1 XFER: the engine counted more than the length (R205). -/
  | xfer
  /-- Bit 2 RXLEN: the receive length would pass the capacity (R207). -/
  | rxlen
  /-- Bit 3 LEN: the descriptor length would pass 255 (R208). -/
  | len
  deriving DecidableEq, Repr

/-- One request of the engine on the engine buffer port during a dispatch, view-relative (44_dispatch.md R181). -/
inductive EngineAccess where
  /-- `ViewRead(k, p)` (20_memory.md R69). -/
  | read (k p : Nat)
  /-- `ViewWrite(k, p, b)` (20_memory.md R70). -/
  | write (k p : Nat) (b : Byte)
  deriving DecidableEq, Repr

/-- What the engine drives when it raises `eng_done` (R184): the status and `eng_xferred[k]`. The count of a descriptor
that is not active is not looked at (R186). -/
structure EngineDone where
  status   : Byte
  xferred0 : Byte
  xferred1 : Byte
  deriving DecidableEq, Repr

/-- The engine's answer to one dispatch (R191): its buffer-port requests in order, then `eng_done`, or never
(`done = none`, the answer Hang of R189). The model puts no law on any of it (log 5, log 6). -/
structure EngineAnswer where
  accesses : List EngineAccess
  done     : Option EngineDone
  deriving DecidableEq, Repr

/-- What the engine is shown of one active descriptor (R183): `eng_addr[k]`, `eng_flags[k]`, `eng_length[k]` and, for a
WRITE descriptor, the bytes of its view, position 0 first (R65). -/
structure EngineDesc where
  address : DevAddr
  flags   : Flag
  length  : Byte
  data    : List Byte
  deriving DecidableEq, Repr

/-- What the engine is given when `eng_go` rises (R181, R183): `eng_send_stop`, `eng_count` and the active descriptors. -/
structure EngineRequest where
  sendStop : Bool
  count    : DescCount
  descs    : List EngineDesc
  deriving DecidableEq, Repr

/-- What the host does (R11): it presents a command word, or it asserts reset (70_reset_and_hazards.md R231, R232). -/
inductive HostInput where
  | command (w : CmdWord)
  | reset
  deriving DecidableEq, Repr

/-- The model's stops, beside the machine's own faults (which are bits of `fault` and end in a next state). Each arises only
in a state that no run from reset reaches (log 8). -/
inductive Fault where
  /-- Raised by READ and WRITE when the cursor names a byte that its space does not have (20_memory.md R60). Safe. -/
  | noSuchByte (space : Space) (index : Nat)
  /-- Raised by AVAIL when `rx_buf_len < rx_buf_idx`: the difference is no unsigned number (00_scope.md R15). Safe. -/
  | negativeCount (len idx : Byte)
  deriving DecidableEq, Repr

/-- No command is refused by the model: an illegal word gets the response the spec gives it (R200). -/
inductive Refusal where
  /-- Raised by exec's arm of an instruction that has no meaning yet; no arm is of this kind. Safe. -/
  | notModelled (mnemonic : String)
  deriving DecidableEq, Repr

/-- The whole machine: the registers S0 to S22 of R42, the instance's parameters, its ports, and what the outside world
does next. -/
structure State where
  /-- `CAPACITY`, `SUCCESS`, `EDATA` (R8, R10). No step changes them (log 1). -/
  params        : Params
  /-- S0 (R31). -/
  txBufIdx      : Byte
  /-- S1 (R32). -/
  txBufOverflow : Bool
  /-- S2 (R34). -/
  rxBufIdx      : Byte
  /-- S3 (R35). -/
  rxBufLen      : Byte
  /-- S4 (R29). -/
  descCount     : DescCount
  /-- S5 to S10, `desc[0]` (R22). -/
  desc0         : Descriptor
  /-- S11 to S16, `desc[1]` (R22). -/
  desc1         : Descriptor
  /-- S17, the one byte of space REG (R36). -/
  regScalar     : Byte
  /-- S18 (R38). -/
  selfAddress   : DevAddr
  /-- S19: bit 0 VIEW, bit 1 XFER, bit 2 RXLEN, bit 3 LEN (R39). -/
  fault         : BitVec 4
  /-- S20 (R40). -/
  busy          : Bool
  /-- S21 (R30). -/
  txBuf         : Memory
  /-- S22 (R33). -/
  rxBuf         : Memory
  /-- The response port: the response to the command taken last, if it has one (R90, R97; log 7). -/
  resp          : Option RespWord
  /-- The engine control port: what the command taken last handed to the engine, if it started it (R181, R183; log 7). -/
  engGo         : Option EngineRequest
  /-- The engine buffer port: the bytes answered to the engine's reads in that dispatch, oldest first (R69; log 7). -/
  engReadData   : List Byte
  /-- MODEL: what the host does next, in order (R91; log 4). -/
  hostInputs    : List HostInput
  /-- MODEL: the engine's answers, one for each dispatch that starts it; past the last one it never answers (R191; log 5). -/
  engineAnswers : List EngineAnswer
  /-- MODEL: how many hardware resets lie behind, for the bytes that are unspecified after each (R43; log 2). -/
  ramEpoch      : Nat
  /-- MODEL: how many free bytes the buffer port has drawn (R69; log 3). -/
  freeDraws     : Nat
  deriving DecidableEq, Repr

/-- The outcome of a step. -/
abbrev Result := Host.Outcome State Fault Refusal

/-- Every field zero: address 0, view (TX, 0), length 0, xferred 0, WRITE (R230). -/
def Descriptor.zero : Descriptor where
  address := 0
  view    := { space := .tx, offset := 0 }
  length  := 0
  xferred := 0
  flags   := .write

/-- The reset state of an instance with parameters `p` (R42, R230): registers zero but `desc_count`, which is 1; no byte of
either buffer written; the ports idle (R231). The model's own fields are arguments. -/
def State.resetWith (p : Params) (epoch draws : Nat) (inputs : List HostInput) (answers : List EngineAnswer) : State where
  params        := p
  txBufIdx      := 0
  txBufOverflow := false
  rxBufIdx      := 0
  rxBufLen      := 0
  descCount     := .one
  desc0         := .zero
  desc1         := .zero
  regScalar     := 0
  selfAddress   := 0
  fault         := 0
  busy          := false
  txBuf         := []
  rxBuf         := []
  resp          := none
  engGo         := none
  engReadData   := []
  hostInputs    := inputs
  engineAnswers := answers
  ramEpoch      := epoch
  freeDraws     := draws

/-- The machine right after reset, with nothing presented and no answer given (log 1, log 4, log 5). -/
def State.reset : State := State.resetWith Params.default 0 0 [] []

end Sys2Proof.Machine
end

