-- ==== Sys2Proof/Machine/Flags.lean ====
section
/-! DEFINITION. Flag bits: the response word (spec/30_encoding.md R97 to R100), the fault register's bits
(spec/10_state.md R39), the tests a fault answers to, and the status port (spec/60_exceptions.md R221). -/

namespace Sys2Proof.Machine

open Sys2Proof

/-- The response word: `ILL` 15, `FLT` 14, zero 13:9, `DV` 8, `VALUE` 7:0 (R97). -/
def respWord (ill flt dv : Bool) (value : Byte) : RespWord :=
  BitVec.ofBool ill ++ BitVec.ofBool flt ++ 0#5 ++ BitVec.ofBool dv ++ value

/-- The bit of `fault` a cause sets (R39, R202). -/
def Cause.bit : Cause → BitVec 4
  | .view => 0b0001#4
  | .xfer => 0b0010#4
  | .rxlen => 0b0100#4
  | .len => 0b1000#4

/-- The two-bit code of `view.space` (R24). -/
def Space.code : Space → BitVec 2
  | .tx => 0
  | .rx => 1
  | .reg => 2
  | .reserved => 3

/-- The bit of `flags` (R25). -/
def Flag.code : Flag → BitVec 1
  | .write => 0
  | .read => 1

/-- The number `desc_count` holds, as `eng_count` shows it (R29, R181). -/
def DescCount.code : DescCount → BitVec 2
  | .one => 1
  | .two => 2

/-- The full test of WRITE: `tx_buf_idx = CAPACITY` (R133). -/
def txFull (s : State) : Bool := s.txBufIdx == s.params.capacity

/-- The empty test of READ: `rx_buf_idx = rx_buf_len` (R172). -/
def rxEmpty (s : State) : Bool := s.rxBufIdx == s.rxBufLen

/-- The last-byte test of READ: `rx_buf_idx = rx_buf_len - 1`, on mathematical integers (R172, R15). -/
def rxLast (s : State) : Bool := s.rxBufIdx.toNat + 1 == s.rxBufLen.toNat

/-- `cmd_ready = not busy` (R90). -/
def cmdReady (s : State) : Bool := !s.busy

/-- The status port: read-only copies of registers (R221). -/
structure StatusPort where
  fault       : BitVec 4
  faultAny    : Bool
  txOverflow  : Bool
  busy        : Bool
  selfAddress : DevAddr
  deriving DecidableEq, Repr

/-- What the status port shows; `fault_any` is the OR of the four bits (R221). -/
def statusPort (s : State) : StatusPort where
  fault       := s.fault
  faultAny    := s.fault != 0
  txOverflow  := s.txBufOverflow
  busy        := s.busy
  selfAddress := s.selfAddress

end Sys2Proof.Machine
end

