-- ==== Sys2Proof/Machine/Operands.lean ====
section
/-! DEFINITION. The operand forms of the commands (spec/30_encoding.md R93, spec/42_request.md R157) and the views they
bind (spec/10_state.md R24, R28). -/

namespace Sys2Proof.Machine

open Sys2Proof

/-- `min(NUM, CAPACITY)`, the clamp of a request (R157): to the whole capacity, not to the room that is left. -/
def clampNum (p : Params) (num : Byte) : Byte :=
  if num.toNat ≤ p.capacity.toNat then num else p.capacity

/-- `Bound(space)` (20_memory.md R60). -/
def bound (p : Params) : Space → Nat
  | .tx => p.capacity.toNat
  | .rx => p.capacity.toNat
  | .reg => 1
  | .reserved => 0

/-- The view BEGINTX binds: the transmit buffer's current write position (R131). -/
def txView (s : State) : View := { space := .tx, offset := s.txBufIdx }

/-- The view REQ and REQREG bind: the receive buffer at the read cursor (R151, R156 (a); 90_conflicts.md C3). -/
def rxView (s : State) : View := { space := .rx, offset := s.rxBufIdx }

/-- The view of the register scalar (R155). -/
def regView : View := { space := .reg, offset := 0 }

/-- `desc[0]` as BEGINTX leaves it: `xferred` keeps its value (R131). -/
def beginTxDesc (addr : DevAddr) (s : State) : Descriptor :=
  { s.desc0 with address := addr, view := txView s, length := 0, flags := .write }

/-- A READ descriptor of a request: it keeps only `xferred` of what stood there (R151, R155). -/
def requestDesc (old : Descriptor) (addr : DevAddr) (num : Byte) (s : State) : Descriptor :=
  { old with address := addr, view := rxView s, length := clampNum s.params num, flags := .read }

/-- The WRITE descriptor of REQREG's register write (R155). -/
def registerDesc (addr : DevAddr) (s : State) : Descriptor :=
  { s.desc0 with address := addr, view := regView, length := 1, flags := .write }

/-- The descriptors a dispatch hands over, `desc[0 .. desc_count-1]` in order (R29). -/
def activeDescs (s : State) : List Descriptor :=
  match s.descCount with
  | .one => [s.desc0]
  | .two => [s.desc0, s.desc1]

/-- The active descriptor `k`, if `k < desc_count` (R69, R70). -/
def activeDesc? (k : Nat) (s : State) : Option Descriptor := (activeDescs s)[k]?

end Sys2Proof.Machine
end

