-- ==== Sys2Proof/Machine/Ops.lean ====
section
/-! DEFINITION. The named operations every meaning is written with: byte access (spec/20_memory.md), responses and the
fault latch (spec/60_exceptions.md), reset (spec/70_reset_and_hazards.md), and the dispatch (spec/44_dispatch.md). -/

namespace Sys2Proof.Machine

open Sys2Proof

/-! ### Buffers -/

/-- The canonical form of a buffer: indices strictly rising. (An unlisted index has no byte of its own, so no entry can equal
what an unlisted index reads as.) -/
abbrev Memory.wf (m : Memory) : Prop := m.Pairwise (fun x y => x.1 < y.1)

/-- The byte written at index `i`, if one was. -/
def Memory.byteAt? : Memory → Nat → Option Byte
  | [], _ => none
  | (a, b) :: m, i => if a = i then some b else Memory.byteAt? m i

/-- The buffer after byte `v` is written at index `i`. -/
def Memory.store : Memory → Nat → Byte → Memory
  | [], i, v => [(i, v)]
  | (a, b) :: m, i, v =>
    if i < a then (i, v) :: (a, b) :: m
    else if i = a then (i, v) :: m
    else (a, b) :: Memory.store m i v

/-- The byte `tx_buf[i]` holds: the one written last, or the unspecified one it has held since reset (R43). -/
def txByte (s : State) (i : Nat) : Byte := (s.txBuf.byteAt? i).getD (Config.unwrittenTx s.ramEpoch i)

/-- The byte `rx_buf[i]` holds (R43). -/
def rxByte (s : State) (i : Nat) : Byte := (s.rxBuf.byteAt? i).getD (Config.unwrittenRx s.ramEpoch i)

/-- `MemRead(space, i, 1)` (R14): `none` where the space has no byte `i` (R60). -/
def memRead (sp : Space) (i : Nat) (s : State) : Option Byte :=
  if i < bound s.params sp then
    match sp with
    | .tx => some (txByte s i)
    | .rx => some (rxByte s i)
    | .reg => some s.regScalar
    | .reserved => none
  else none

/-- `MemWrite(space, i, 1, b)` (R14): `none` where the space has no byte `i` (R60). -/
def memWrite (sp : Space) (i : Nat) (b : Byte) (s : State) : Option State :=
  if i < bound s.params sp then
    match sp with
    | .tx => some { s with txBuf := s.txBuf.store i b }
    | .rx => some { s with rxBuf := s.rxBuf.store i b }
    | .reg => some { s with regScalar := b }
    | .reserved => none
  else none

/-! ### Taking a command, responding, faulting, reset -/

/-- The sequencer takes a command: `busy` rises (R40), and the ports stop showing the command before (log 7). -/
def accept (s : State) : State :=
  { s with busy := true, resp := none, engGo := none, engReadData := [] }

/-- The command completes with response `r`, and `busy` falls (R90, R40). -/
def complete (r : RespWord) (s : State) : State :=
  { s with busy := false, resp := some r }

/-- `respond(value, dv)` (R16, R97). -/
def respond (value : Byte) (dv : Bool) (s : State) : State :=
  complete (respWord false false dv value) s

/-- The illegal response, 0x8000 (R99). -/
def respondIllegal (s : State) : State := complete (respWord true false false 0) s

/-- The fault response, 0x4000 (R100). -/
def respondFault (s : State) : State := complete (respWord false true false 0) s

/-- `raise Fault(c)`, the only entry into the faulted machine: sets the sticky bit and gives the fault response. It saves
nothing, goes nowhere and records no value (R202, R203, R206). -/
def raiseFault (c : Cause) (s : State) : State :=
  respondFault { s with fault := s.fault ||| c.bit }

/-- Hardware reset, the only return from a fault or a hang (R203, R230, R232). The outside world's coming actions stay;
the RAM bytes are unspecified anew (R43; log 10). -/
def hardReset (s : State) : State :=
  State.resetWith s.params (s.ramEpoch + 1) s.freeDraws s.hostInputs s.engineAnswers

/-- A legal command: taken, refused with the fault response while `fault` is not zero, else executed (R101, R203). -/
def command (body : State → Result) (s : State) : Result :=
  if s.fault = 0 then body (accept s) else .next (respondFault (accept s))

/-- An illegal word: taken and refused with the illegal response, whatever `fault` is; nothing else changes (R101, R200). -/
def refuseIllegal (s : State) : State := respondIllegal (accept s)

/-! ### Cursors -/

/-- The transmit cursor and flag become empty (R31, R32). -/
def emptyTx (s : State) : State := { s with txBufIdx := 0, txBufOverflow := false }

/-- The receive cursor and length become empty (R34, R35). -/
def emptyRx (s : State) : State := { s with rxBufIdx := 0, rxBufLen := 0 }

/-- `rx_buf_len <- rx_buf_len + x`, or `none` where the sum would pass `CAPACITY`; the sum does not wrap (R207). -/
def accumulate (x : Byte) (s : State) : Option State :=
  if s.rxBufLen.toNat + x.toNat ≤ s.params.capacity.toNat then some { s with rxBufLen := s.rxBufLen + x } else none

/-! ### The dispatch -/

/-- `ViewOK(d)`: the view lies inside its space; the sum does not wrap (R182). -/
def viewOk (p : Params) (d : Descriptor) : Bool :=
  d.view.space != .reserved && decide (d.view.offset.toNat + d.length.toNat ≤ bound p d.view.space)

/-- The contract of the engine's count: `xferred <= length` (R187). -/
def countOk (d : Descriptor) : Bool := decide (d.xferred.toNat ≤ d.length.toNat)

/-- Is `ViewRead(k, p)` admitted? (R69) -/
def readAdmitted (d : Descriptor) (p : Nat) : Bool :=
  d.flags == .write && decide (p < d.length.toNat)

/-- Is `ViewWrite(k, p, b)` admitted? (R70) -/
def writeAdmitted (d : Descriptor) (p : Nat) : Bool :=
  d.flags == .read && d.view.space == .rx && decide (p < d.length.toNat)

/-- The byte an admitted `ViewRead(k, p)` answers; `none` when it is not admitted (R69). -/
def viewRead? (k p : Nat) (s : State) : Option Byte :=
  match activeDesc? k s with
  | none => none
  | some d => if readAdmitted d p then memRead d.view.space (d.view.offset.toNat + p) s else none

/-- The engine's read: answered with the byte of the view, or with an unspecified byte (R69). -/
def viewRead (k p : Nat) (s : State) : State :=
  match viewRead? k p s with
  | some b => { s with engReadData := s.engReadData ++ [b] }
  | none =>
    { s with engReadData := s.engReadData ++ [Config.unadmittedRead s.freeDraws], freeDraws := s.freeDraws + 1 }

/-- The engine's write: stored into the view, or dropped (R70). -/
def viewWrite (k p : Nat) (b : Byte) (s : State) : State :=
  match activeDesc? k s with
  | none => s
  | some d =>
    if writeAdmitted d p then (memWrite .rx (d.view.offset.toNat + p) b s).getD s else s

/-- One request on the engine buffer port. -/
def serveAccess (a : EngineAccess) (s : State) : State :=
  match a with
  | .read k p => viewRead k p s
  | .write k p b => viewWrite k p b s

/-- The engine's requests of one dispatch, in the order it issues them (R74 (4)). -/
def serveAccesses : List EngineAccess → State → State
  | [], s => s
  | a :: as, s => serveAccesses as (serveAccess a s)

/-- The bytes of a view, position 0 first (R65). -/
def viewData (d : Descriptor) (s : State) : List Byte :=
  (List.range d.length.toNat).filterMap (fun p => memRead d.view.space (d.view.offset.toNat + p) s)

/-- What the engine is shown of an active descriptor: never `view.space` or `view.offset` (R181, R183). -/
def engineDesc (s : State) (d : Descriptor) : EngineDesc where
  address := d.address
  flags   := d.flags
  length  := d.length
  data    := if d.flags = .write then viewData d s else []

/-- Step 2 of the dispatch: `eng_go` rises with `sendStop`, the count and the active descriptors (R180, R183). -/
def startEngine (sendStop : Bool) (s : State) : State :=
  { s with
    engGo := some { sendStop := sendStop, count := s.descCount, descs := (activeDescs s).map (engineDesc s) } }

/-- Step 3 of the dispatch: `xferred` of the active descriptors, and of no other, is latched, whatever the status (R186). -/
def latchXferred (d : EngineDone) (s : State) : State :=
  match s.descCount with
  | .one => { s with desc0 := { s.desc0 with xferred := d.xferred0 } }
  | .two =>
    { s with desc0 := { s.desc0 with xferred := d.xferred0 }, desc1 := { s.desc1 with xferred := d.xferred1 } }

/-- How a dispatch ends (R16): with a status, with a fault raised, or never. -/
inductive Dispatched where
  | returned (status : Byte) (s : State)
  | raised (s : State)
  | hung (s : State)
  deriving DecidableEq, Repr

/-- Steps 3 and 4 of the dispatch, or the hang: `eng_done` came with these values, or never comes (R180, R187, R189). -/
def finishDispatch (done : Option EngineDone) (s : State) : Dispatched :=
  match done with
  | none => .hung s
  | some d =>
    if (activeDescs (latchXferred d s)).all countOk then .returned d.status (latchXferred d s)
    else .raised (raiseFault .xfer (latchXferred d s))

/-- The engine runs: it takes the next answer of `engineAnswers`, or never answers when there is none (R191; log 5). -/
def runEngine (s : State) : Dispatched :=
  match s.engineAnswers with
  | [] => .hung s
  | a :: rest => finishDispatch a.done (serveAccesses a.accesses { s with engineAnswers := rest })

/-- `Dispatch(s)` (R180). A view out of bounds raises VIEW and the engine is not started (R182). -/
def dispatch (sendStop : Bool) (s : State) : Dispatched :=
  if (activeDescs s).all (viewOk s.params) then runEngine (startEngine sendStop s)
  else .raised (raiseFault .view s)

/-- The rest of a dispatching command: it runs on a status; a raised fault ends the command (R202); a hang leaves it
waiting with `busy` at 1 (R189). -/
def Dispatched.andThen (r : Dispatched) (k : Byte → State → State) : Result :=
  match r with
  | .returned st s => .next (k st s)
  | .raised s => .next s
  | .hung s => .next s

end Sys2Proof.Machine
end

