-- ==== Sys2Proof/Machine/Drain.lean ====
section
/-! DEFINITION. The drain commands, AVAIL and READ (spec/43_drain.md). -/

namespace Sys2Proof.Machine

open Sys2Proof

/-- AVAIL (R170). In a state where the cursor lies beyond the length, which no run reaches (R35), the difference is no
unsigned number and the model stops (log 8). -/
def execAvail (s : State) : Result :=
  command (fun s =>
    if s.rxBufIdx.toNat ≤ s.rxBufLen.toNat then .next (respond (s.rxBufLen - s.rxBufIdx) false s)
    else .fault (.negativeCount s.rxBufLen s.rxBufIdx)) s

/-- READ (R172): empty, last unread byte, or at least two unread bytes, tested in this order (R173 (a)). -/
def execRead (s : State) : Result :=
  command (fun s =>
    if rxEmpty s then .next (respond 0 false (emptyRx s))
    else
      match memRead .rx s.rxBufIdx.toNat s with
      | none => .fault (.noSuchByte .rx s.rxBufIdx.toNat)
      | some v =>
        if rxLast s then .next (respond v true (emptyRx s))
        else .next (respond v true { s with rxBufIdx := s.rxBufIdx + 1 })) s

end Sys2Proof.Machine
end

