-- ==== Sys2Proof/Machine/Init.lean ====
section
/-! DEFINITION. The initialisation command, BEGIN (spec/40_init.md). -/

namespace Sys2Proof.Machine

open Sys2Proof

/-- BEGIN (R120). The descriptors, `desc_count`, `reg_scalar`, `fault` and the buffers' bytes are left alone (R121). -/
def execBegin (addr : DevAddr) (s : State) : Result :=
  command (fun s => .next (respond 0 false (emptyRx (emptyTx { s with selfAddress := addr })))) s

end Sys2Proof.Machine
end

