-- ==== Sys2Proof/Machine/Request.lean ====
section
/-! DEFINITION. The request commands, REQ and REQREG (spec/42_request.md). Both dispatch with `sendStop` true and drop the
engine's status (R153, R190). -/

namespace Sys2Proof.Machine

open Sys2Proof

/-- The lines of a request after its dispatch: accumulate the count or raise RXLEN, run the closing writes, respond the
new `rx_buf_len` (R151, R155). -/
def finishRequest (count : State → Byte) (closing : State → State) (s : State) : State :=
  match accumulate (count s) s with
  | none => raiseFault .rxlen s
  | some t => respond t.rxBufLen false (closing t)

/-- The staging of REQ (R151). -/
def stageReq (addr : DevAddr) (num : Byte) (s : State) : State :=
  { s with desc0 := requestDesc s.desc0 addr num s }

/-- The closing write of REQ: the READ flag is cleared (R151). -/
def closeReq (s : State) : State := { s with desc0 := { s.desc0 with flags := .write } }

/-- REQ (R151). -/
def execReq (addr : DevAddr) (num : Byte) (s : State) : Result :=
  command (fun s =>
    (dispatch true (stageReq addr num s)).andThen (fun _ t => finishRequest (fun u => u.desc0.xferred) closeReq t)) s

/-- The staging of REQREG: the register byte, both descriptors, the count (R155). -/
def stageReqReg (addr : DevAddr) (reg num : Byte) (s : State) : State :=
  { s with
    regScalar := reg
    desc0     := registerDesc addr s
    desc1     := requestDesc s.desc1 addr num s
    descCount := .two }

/-- The closing writes of REQREG: the READ flag is cleared and the count is 1 again (R155). -/
def closeReqReg (s : State) : State :=
  { s with desc1 := { s.desc1 with flags := .write }, descCount := .one }

/-- REQREG (R155). -/
def execReqReg (addr : DevAddr) (reg num : Byte) (s : State) : Result :=
  command (fun s =>
    (dispatch true (stageReqReg addr reg num s)).andThen
      (fun _ t => finishRequest (fun u => u.desc1.xferred) closeReqReg t)) s

end Sys2Proof.Machine
end

