-- ==== Sys2Proof/Machine/Transmit.lean ====
section
/-! DEFINITION. The transmit commands, BEGINTX, WRITE, ENDTX (spec/41_transmit.md). -/

namespace Sys2Proof.Machine

open Sys2Proof

/-- BEGINTX (R131). It resets neither the transmit buffer nor the overflow flag (R132). -/
def execBeginTx (addr : DevAddr) (s : State) : Result :=
  command (fun s => .next (respond 0 false { s with desc0 := beginTxDesc addr s })) s

/-- WRITE on a buffer with room: the byte is stored, and the cursor and `desc[0].length` advance (R133). -/
def stageByte (b : Byte) (s : State) : Result :=
  match memWrite .tx s.txBufIdx.toNat b s with
  | none => .fault (.noSuchByte .tx s.txBufIdx.toNat)
  | some t =>
    .next (respond 0 false
      { t with txBufIdx := t.txBufIdx + 1, desc0 := { t.desc0 with length := t.desc0.length + 1 } })

/-- WRITE (R133): the full test first, then LEN (R134 (a)). -/
def execWrite (data : Byte) (s : State) : Result :=
  command (fun s =>
    if txFull s then .next (respond 0 false { s with txBufOverflow := true })
    else if s.desc0.length = 255 then .next (raiseFault .len s)
    else stageByte data s) s

/-- ENDTX (R136). A fault in the dispatch ends it before the cursor and the flag are emptied (90_conflicts.md C8). -/
def execEndTx (sendStop : Bool) (s : State) : Result :=
  command (fun s =>
    if s.txBufOverflow then .next (respond s.params.edata false (emptyTx s))
    else (dispatch sendStop s).andThen (fun st t => respond st false (emptyTx t))) s

end Sys2Proof.Machine
end

