-- ==== Sys2Proof/Machine/Dispatch.lean ====
section
/-! DEFINITION. One arm per command (spec/30_encoding.md R94): each calls its meaning. -/

namespace Sys2Proof.Machine

open Sys2Proof

/-- The effect of a legal command the sequencer has taken. -/
def exec (i : Instr) (s : State) : Host.Outcome State Fault Refusal :=
  match i with
  | .begin addr => Sys2Proof.Machine.execBegin addr s
  | .beginTx addr => Sys2Proof.Machine.execBeginTx addr s
  | .write data => Sys2Proof.Machine.execWrite data s
  | .endTx sendStop => Sys2Proof.Machine.execEndTx sendStop s
  | .req addr num => Sys2Proof.Machine.execReq addr num s
  | .reqReg addr reg num => Sys2Proof.Machine.execReqReg addr reg num s
  | .avail => Sys2Proof.Machine.execAvail s
  | .read => Sys2Proof.Machine.execRead s

end Sys2Proof.Machine
end

