-- ==== Sys2Proof/Machine/Input.lean ====
section
/-! DEFINITION. What the sequencer takes from the outside world at a step (spec/30_encoding.md R90, R91;
spec/70_reset_and_hazards.md R231, R232). -/

namespace Sys2Proof.Machine

open Sys2Proof

/-- What a step finds at the ports. -/
inductive Taken where
  /-- Nothing is taken: the host presents nothing (60_exceptions.md R222), or a command waits while `busy` is 1 (R40, R189). -/
  | nothing
  /-- Reset is asserted; available in every state (R232). -/
  | reset (s : State)
  /-- A command word is taken; `s` is the state without it. -/
  | word (w : CmdWord) (s : State)
  deriving DecidableEq, Repr

/-- Looks at the host's next action (log 4). -/
def takeInput (s : State) : Taken :=
  match s.hostInputs with
  | [] => .nothing
  | .reset :: rest => .reset { s with hostInputs := rest }
  | .command w :: rest => if cmdReady s then .word w { s with hostInputs := rest } else .nothing

/-- The host presents word `w` next, at a sequencer that is ready for it (log 4). -/
def presentWord (w : CmdWord) (s : State) : State :=
  { s with busy := false, hostInputs := .command w :: s.hostInputs }

end Sys2Proof.Machine
end

