-- ==== Sys2Proof/Machine/Step.lean ====
section
/-! DEFINITION. One step of the machine: one action of the host, a command executed whole (spec/00_scope.md R11,
spec/30_encoding.md R91, R101). -/

namespace Sys2Proof.Machine

open Sys2Proof

/-- A word the sequencer has taken: refused if it encodes no command, else executed (R101). -/
def runWord (w : CmdWord) (s : State) : Host.Outcome State Fault Refusal :=
  match decode w with
  | .error _ => .next (refuseIllegal s)
  | .ok i => exec i s

/-- One step. With nothing to take the sequencer holds its state (R222, R189). -/
def step (s : State) : Host.Outcome State Fault Refusal :=
  match takeInput s with
  | .nothing => .next s
  | .reset t => .next (hardReset t)
  | .word w t => runWord w t

/-- The host presents the word of `nbits` bits next, ready to be taken: the sequencer has no program counter, and a
command is fetched from the command port (R21, R90; log 4). -/
def State.withFetchWord (s : State) (nbits w : Nat) : State :=
  presentWord (BitVec.ofNat 32 (w % 2 ^ nbits)) s

end Sys2Proof.Machine
end

