-- ==== Sys2Proof/WellFormed.lean ====
section
/-! DEFINITION. Well-formedness. An `Instr` has operands of exactly its fields' widths (spec/30_encoding.md R93), so the type
admits no ill-formed command. The checks that can fail are those on a line of assembler source, whose operands are plain
numbers (R103, R105). -/

namespace Sys2Proof

/-- Every command of the type is well formed: each operand has its field's width and no field carries a further
restriction (R93). -/
def Instr.wf : Instr → Bool
  | .begin _ => true
  | .beginTx _ => true
  | .write _ => true
  | .endTx _ => true
  | .req _ _ => true
  | .reqReg _ _ _ => true
  | .avail => true
  | .read => true

/-- One line of assembler source (R103, R108, R109). Numbers are integers as written, so that what the assembler refuses
can be written down. -/
inductive AsmLine where
  | begin (addr : Int)
  | beginTx (addr : Int)
  | write (byte : Int)
  /-- `ENDTX`, `ENDTX stop` or `ENDTX nostop`; `none` is the absent qualifier (R104). -/
  | endTx (stop : Option Bool)
  | req (addr n : Int)
  | reqReg (addr reg n : Int)
  | avail
  | read
  /-- `WRITEN b0, b1, ...` (R108). -/
  | writeN (bytes : List Int)
  /-- `WRITEZ "text"` with the text's bytes (R109). -/
  | writeZ (text : List Byte)
  deriving DecidableEq, Repr

/-- An address operand is 0 to 1023 (R103). -/
def asmAddrOk (a : Int) : Bool := decide (0 ≤ a) && decide (a ≤ 1023)

/-- A byte operand is 0 to 255 (R103). -/
def asmByteOk (b : Int) : Bool := decide (0 ≤ b) && decide (b ≤ 255)

/-- A count operand is not negative; there is no upper bound (R103, R105). -/
def asmCountOk (n : Int) : Bool := decide (0 ≤ n)

/-- The operand ranges of R103. A line outside them has no encoding and is refused (R105). -/
def AsmLine.wf : AsmLine → Bool
  | .begin a => asmAddrOk a
  | .beginTx a => asmAddrOk a
  | .write b => asmByteOk b
  | .endTx _ => true
  | .req a n => asmAddrOk a && asmCountOk n
  | .reqReg a r n => asmAddrOk a && asmByteOk r && asmCountOk n
  | .avail => true
  | .read => true
  | .writeN bs => bs.all asmByteOk
  | .writeZ _ => true

end Sys2Proof
end

