-- ==== Sys2Proof/Machine/Assembler.lean ====
section
/-! DEFINITION. The assembler of spec/30_encoding.md R103 to R109: source lines to commands, and the text form of a line.
It is no part of the hardware; the pseudo-instructions WRITEN and WRITEZ exist only here. -/

namespace Sys2Proof.Machine

open Sys2Proof

/-- A count above 255 is written as `NUM = 255` (R105). -/
def narrowCount (n : Int) : Byte := BitVec.ofNat 8 (min n.toNat 255)

/-- The commands of a line whose operands are in range. -/
def AsmLine.expand : AsmLine → List Instr
  | .begin a => [.begin (BitVec.ofInt 10 a)]
  | .beginTx a => [.beginTx (BitVec.ofInt 10 a)]
  | .write b => [.write (BitVec.ofInt 8 b)]
  | .endTx stop => [.endTx (stop.getD true)]
  | .req a n => [.req (BitVec.ofInt 10 a) (narrowCount n)]
  | .reqReg a r n => [.reqReg (BitVec.ofInt 10 a) (BitVec.ofInt 8 r) (narrowCount n)]
  | .avail => [.avail]
  | .read => [.read]
  | .writeN bs => bs.map (fun b => .write (BitVec.ofInt 8 b))
  | .writeZ text => (text.takeWhile (fun c => c != 0)).map .write

/-- The assembler: the commands of a line, or `none` where an operand has no encoding (R105). -/
def assemble (l : AsmLine) : Option (List Instr) :=
  if l.wf then some (AsmLine.expand l) else none

/-- The number the assembler itself returns for WRITEN: the bytes given (R108). No other line has a result. -/
def asmResult : AsmLine → Option Nat
  | .writeN bs => some bs.length
  | .begin _ => none
  | .beginTx _ => none
  | .write _ => none
  | .endTx _ => none
  | .req _ _ => none
  | .reqReg _ _ _ => none
  | .avail => none
  | .read => none
  | .writeZ _ => none

/-! ### The text of a line (R103). DESIGN CHOICE where R103 is silent (log 13): blanks and tabs separate, hexadecimal
digits in either case, a leading minus sign is read so that the range check can refuse it, a `;` between double quotes
does not start a comment (every double quote opens or closes), a character of WRITEZ's text is the byte of its code, and a
double quote inside that text is a byte of it. -/

def asmBlank (c : Char) : Bool := c == ' ' || c == '\t'

def asmTrim (cs : List Char) : List Char :=
  ((cs.dropWhile asmBlank).reverse.dropWhile asmBlank).reverse

/-- The line without its comment (R103); `inText` says that a double quote is open. DESIGN CHOICE (log 13): every double quote
toggles it, an inner one of WRITEZ's text too, so a `;` after an odd number of quotes is text and after an even number a
comment. -/
def asmStripComment : Bool → List Char → List Char
  | _, [] => []
  | inText, c :: cs =>
    if c == '"' then c :: asmStripComment (!inText) cs
    else if c == ';' && !inText then []
    else c :: asmStripComment inText cs

def asmDigit? (c : Char) : Option Nat :=
  if '0' ≤ c ∧ c ≤ '9' then some (c.toNat - 48)
  else if 'a' ≤ c ∧ c ≤ 'f' then some (c.toNat - 87)
  else if 'A' ≤ c ∧ c ≤ 'F' then some (c.toNat - 55)
  else none

/-- Digits in a base, most significant first, onto the number read so far. -/
def asmDigits? (base : Nat) : Nat → List Char → Option Nat
  | n, [] => some n
  | n, c :: cs =>
    match asmDigit? c with
    | some d => if d < base then asmDigits? base (n * base + d) cs else none
    | none => none

/-- A number without sign: decimal or `0x` hexadecimal (R103). -/
def asmNat? : List Char → Option Nat
  | [] => none
  | '0' :: 'x' :: c :: cs => asmDigits? 16 0 (c :: cs)
  | c :: cs => asmDigits? 10 0 (c :: cs)

def asmInt? : List Char → Option Int
  | '-' :: cs => (asmNat? cs).map (fun n => -(n : Int))
  | cs => (asmNat? cs).map (fun n => (n : Int))

/-- The operands: the text between commas (R103). -/
def asmSplit : List Char → List (List Char)
  | [] => [[]]
  | c :: cs =>
    if c == ',' then [] :: asmSplit cs
    else
      match asmSplit cs with
      | [] => [[c]]
      | w :: ws => (c :: w) :: ws

def asmInts? : List (List Char) → Option (List Int)
  | [] => some []
  | w :: ws =>
    match asmInt? (asmTrim w), asmInts? ws with
    | some n, some ns => some (n :: ns)
    | _, _ => none

/-- The numbers of an operand text; none for an empty text. -/
def asmOperands? (cs : List Char) : Option (List Int) :=
  if cs.isEmpty then some [] else asmInts? (asmSplit cs)

def asmBytes? : List Char → Option (List Byte)
  | [] => some []
  | c :: cs =>
    match asmBytes? cs with
    | some bs => if c.toNat < 256 then some (BitVec.ofNat 8 c.toNat :: bs) else none
    | none => none

/-- The text between the double quotes of WRITEZ (R109). DESIGN CHOICE (log 13): R103 and R109 give no rule for a double quote
inside the text; the text ends at the last character of the operand, which must be a double quote, and every inner one is a
byte of the text. -/
def asmText? (cs : List Char) : Option (List Byte) :=
  match cs, cs.reverse with
  | '"' :: rest, '"' :: _ :: _ => asmBytes? rest.dropLast
  | _, _ => none

/-- The line of a mnemonic and its operand text (R103, R108, R109). -/
def asmLine? (mnemonic ops : List Char) : Option AsmLine :=
  if mnemonic = "ENDTX".toList then
    if ops = [] then some (.endTx none)
    else if ops = "stop".toList then some (.endTx (some true))
    else if ops = "nostop".toList then some (.endTx (some false))
    else none
  else if mnemonic = "WRITEZ".toList then (asmText? ops).map .writeZ
  else
    match asmOperands? ops with
    | none => none
    | some ns =>
      if mnemonic = "WRITEN".toList then some (.writeN ns)
      else
        match ns with
        | [] =>
          if mnemonic = "AVAIL".toList then some .avail
          else if mnemonic = "READ".toList then some .read
          else none
        | [a] =>
          if mnemonic = "BEGIN".toList then some (.begin a)
          else if mnemonic = "BEGINTX".toList then some (.beginTx a)
          else if mnemonic = "WRITE".toList then some (.write a)
          else none
        | [a, b] => if mnemonic = "REQ".toList then some (.req a b) else none
        | [a, b, c] => if mnemonic = "REQREG".toList then some (.reqReg a b c) else none
        | _ => none

/-- The commands of one line of source text; none for a blank line or a comment, `none` for a line the assembler refuses. -/
def assembleText (text : List Char) : Option (List Instr) :=
  let line := asmTrim (asmStripComment false text)
  if line = [] then some []
  else
    match asmLine? (line.takeWhile (fun c => !asmBlank c)) (asmTrim (line.dropWhile (fun c => !asmBlank c))) with
    | some l => assemble l
    | none => none

/-- The words of a program: the lines' commands in order (R107, R21), or `none` if a line is refused. -/
def assembleProgram : List (List Char) → Option (List CmdWord)
  | [] => some []
  | l :: ls =>
    match assembleText l, assembleProgram ls with
    | some is, some ws => some (is.map encode ++ ws)
    | _, _ => none

end Sys2Proof.Machine
end

