-- ==== Sys2Proof/Safety.lean ====
section
/-! DEFINITION. The terms in which claims are made: the invariant of the machine (spec/10_state.md R24, R27, R29, R31, R35,
R39, R42), what a state that can run a command is, the named properties an engine may be assumed to have
(spec/44_dispatch.md R192), and runs of several commands. -/

namespace Sys2Proof.Machine

open Sys2Proof

/-- Every listed byte lies inside its buffer (20_memory.md R60). -/
abbrev Memory.within (m : Memory) (n : Nat) : Prop := ∀ c ∈ m, c.1 < n

/-- The invariant that every step keeps. -/
structure Inv (s : State) : Prop where
  /-- R8, R10. -/
  paramsWf   : s.params.wf = true
  txWf       : s.txBuf.wf
  txWithin   : s.txBuf.within s.params.capacity.toNat
  rxWf       : s.rxBuf.wf
  rxWithin   : s.rxBuf.within s.params.capacity.toNat
  /-- R31: `0 <= tx_buf_idx <= CAPACITY`. -/
  txIdx      : s.txBufIdx.toNat ≤ s.params.capacity.toNat
  /-- The flag is set only by WRITE on a full buffer, and the cursor then stays there until both are reset (R32). -/
  txOverflow : s.txBufOverflow = true → s.txBufIdx = s.params.capacity
  /-- R35: `rx_buf_idx <= rx_buf_len`. -/
  rxIdx      : s.rxBufIdx.toNat ≤ s.rxBufLen.toNat
  /-- R35: `rx_buf_len <= CAPACITY`. -/
  rxLen      : s.rxBufLen.toNat ≤ s.params.capacity.toNat
  /-- R35: the two are equal only when both are 0. -/
  rxEmpty    : s.rxBufIdx = s.rxBufLen → s.rxBufIdx = 0
  /-- R39, R202: no bit or exactly one. -/
  faultOne   : s.fault = 0 ∨ ∃ c : Cause, s.fault = c.bit
  /-- R27 (d), R42 S6. -/
  space0     : s.desc0.view.space ≠ .reserved
  /-- R42 S7. -/
  offset0    : s.desc0.view.offset.toNat ≤ s.params.capacity.toNat
  /-- R42 S12. -/
  space1     : s.desc1.view.space = .tx ∨ s.desc1.view.space = .rx
  /-- R42 S13. -/
  offset1    : s.desc1.view.offset.toNat < s.params.capacity.toNat
  /-- R42 S14. -/
  length1    : s.desc1.length.toNat ≤ s.params.capacity.toNat
  /-- R27 (b). -/
  readRx0    : s.desc0.flags = .read → s.desc0.view.space = .rx
  readRx1    : s.desc1.flags = .read → s.desc1.view.space = .rx
  /-- R27 (a), R29: what holds while no command is executing and `fault = 0`. -/
  atRest     : s.busy = false → s.fault = 0 →
    s.descCount = .one ∧ s.desc0.flags = .write ∧ s.desc1.flags = .write

/-- The byte an outside observer of the three spaces would find at an index that exists (20_memory.md R60, R72). Two states
that agree here hold the same memory. -/
def sameByte (sp : Space) (i : Nat) (s t : State) : Prop := memRead sp i s = memRead sp i t

/-- `t` differs from `s` at most in what the ports show and in `busy`: every register and buffer byte, the inputs and the
model's own fields are equal. -/
def samePastPorts (s t : State) : Prop :=
  t = { s with busy := t.busy, resp := t.resp, engGo := t.engGo, engReadData := t.engReadData }

/-- `t` differs from `s` at most in what the engine's accesses during a dispatch can change: bytes of RX, and the model's
record of what its reads were answered (20_memory.md R69, R70). -/
def onlyEngineTouched (s t : State) : Prop :=
  t = { s with rxBuf := t.rxBuf, engReadData := t.engReadData, freeDraws := t.freeDraws }

/-- Every byte of TX and of RX reads as before, but for the bytes `lo, ..., lo + n - 1` of RX. -/
def sameBytesOutside (lo n : Nat) (s t : State) : Prop :=
  (∀ i, memRead .tx i t = memRead .tx i s) ∧
  ∀ i, ¬(lo ≤ i ∧ i < lo + n) → memRead .rx i t = memRead .rx i s

/-- Index `i` of RX lies in the view of an active READ descriptor (20_memory.md R70). -/
def inReadView (s : State) (i : Nat) : Prop :=
  ∃ d ∈ activeDescs s, d.flags = .read ∧ d.view.space = .rx ∧
    d.view.offset.toNat ≤ i ∧ i < d.view.offset.toNat + d.length.toNat

/-- `EngineTerminates` of one answer (R192): the dispatch completes. -/
def EngineAnswer.terminates (a : EngineAnswer) : Prop := a.done ≠ none

/-- `EngineCountsWithinLength` of one answer to the state a dispatch starts in (R192). -/
def EngineAnswer.countsWithinLength (a : EngineAnswer) (s : State) : Prop :=
  ∀ d, a.done = some d → d.xferred0.toNat ≤ s.desc0.length.toNat ∧
    (s.descCount = .two → d.xferred1.toNat ≤ s.desc1.length.toNat)

/-- The count an answer reports for descriptor `k`. -/
def EngineDone.xferred (d : EngineDone) (k : Nat) : Byte := if k = 0 then d.xferred0 else d.xferred1

/-- `EngineWritesPrefixOnly` of one answer to the state a dispatch starts in (R192): in the view of an active READ descriptor
no position at or above the reported count is changed (20_memory.md R71). Requests that are not admitted, and other
descriptors, are not spoken of. -/
def EngineAnswer.writesPrefixOnly (a : EngineAnswer) (s : State) : Prop :=
  ∀ e, a.done = some e → ∀ k d, activeDesc? k s = some d → d.flags = .read →
    ∀ p, (e.xferred k).toNat ≤ p → p < d.length.toNat →
      memRead d.view.space (d.view.offset.toNat + p) (serveAccesses a.accesses s) =
        memRead d.view.space (d.view.offset.toNat + p) s

/-- `EngineSuccessMeansFull` of one answer to the state a dispatch starts in (R192). -/
def EngineAnswer.successMeansFull (a : EngineAnswer) (s : State) : Prop :=
  ∀ d, a.done = some d → d.status = s.params.success → d.xferred0 = s.desc0.length ∧
    (s.descCount = .two → d.xferred1 = s.desc1.length)

/-- `EngineSendsViewInOrder` of one answer to the state a dispatch starts in (R192). The bus is outside the model (R5), so
what the engine puts on it for descriptor `k` is an argument, `bus k`: for an active WRITE descriptor it is the bytes of the
view, position 0 first, as far as the engine got, and at least as far as the count it reports. How often or in what order the
engine reads the bytes on its port is not spoken of (20_memory.md R69). DEDUCED: that a transfer cut short puts a prefix of
the view on the bus (log 15). -/
def EngineAnswer.sendsViewInOrder (a : EngineAnswer) (bus : Nat → List Byte) (s : State) : Prop :=
  ∀ k d, activeDesc? k s = some d → d.flags = .write →
    bus k <+: viewData d s ∧
    ∀ e, a.done = some e → (e.xferred k).toNat ≤ d.length.toNat → (e.xferred k).toNat ≤ (bus k).length

/-- The engine's writes that put `bytes` into the READ view of descriptor `k` from position `p` on. -/
def fillView (k : Nat) : Nat → List Byte → List EngineAccess
  | _, [] => []
  | p, b :: bs => .write k p b :: fillView k (p + 1) bs

/-- The answer `Done(status, x, bytes)` of R191 for a dispatch whose READ descriptor is `k`: `bytes` replaces its view. -/
def EngineAnswer.doneWith (status x0 x1 : Byte) (k : Nat) (bytes : List Byte) : EngineAnswer :=
  { accesses := fillView k 0 bytes, done := some { status := status, xferred0 := x0, xferred1 := x1 } }

/-- If `a` is the answer that gives READ descriptor `k` exactly `n` bytes, then they stand in RX from `lo` on (20_memory.md
R71). -/
def receivedBytesAt (a : EngineAnswer) (k lo n : Nat) (t : State) : Prop :=
  ∀ (st x0 x1 : Byte) (bytes : List Byte), a = EngineAnswer.doneWith st x0 x1 k bytes → bytes.length = n →
    ∀ p, p < n → memRead .rx (lo + p) t = bytes[p]?

/-- Commands one after the other; it ends early where one stops. -/
def execSeq : List Instr → State → Result
  | [], s => .next s
  | i :: is, s =>
    match exec i s with
    | .next t => execSeq is t
    | .fault f => .fault f
    | .refused r => .refused r

/-- The response ports after each of the commands, in order. -/
def respSeq : List Instr → State → List (Option RespWord)
  | [], _ => []
  | i :: is, s =>
    match exec i s with
    | .next t => t.resp :: respSeq is t
    | .fault _ => []
    | .refused _ => []

end Sys2Proof.Machine
end

