-- ==== Sys2Proof/Certificates/Slice0/Obligations.lean ====
section
/-! DEFINITION. The statements for the provers. A response is written as its two bytes: `0x00#8 ++ v` is `DV` 0 with `VALUE`
v, `0x01#8 ++ v` is `DV` 1 (spec/30_encoding.md R97). Each statement of a result gives the whole next state, so that it is
the frame as well. -/

open Sys2Proof Sys2Proof.Machine

/-! ### Encoding -/

/-- Words written out in R110 and 95_test_vectors.md section 2.1, and the command or the refusal each stands for. -/
def Obligations.SpecWordsDecodeAsWritten : Prop :=
  decode 0x10000000#32 = .ok (.begin 0) ∧
  decode 0x100003FF#32 = .ok (.begin 0x3FF) ∧
  decode 0x20000050#32 = .ok (.beginTx 0x50) ∧
  decode 0x300A0000#32 = .ok (.write 0xA0) ∧
  decode 0x30001000#32 = .ok (.write 0x01) ∧
  decode 0x40000800#32 = .ok (.endTx true) ∧
  decode 0x40000000#32 = .ok (.endTx false) ∧
  decode 0x50400050#32 = .ok (.req 0x50 4) ∧
  decode 0x60410050#32 = .ok (.reqReg 0x50 0x10 4) ∧
  decode 0x6FFFF3FF#32 = .ok (.reqReg 0x3FF 0xFF 255) ∧
  decode 0x70000000#32 = .ok .avail ∧
  decode 0x80000000#32 = .ok .read ∧
  decode 0x00000000#32 = .error (.reservedOpcode 0) ∧
  decode 0xFFFFFFFF#32 = .error (.reservedOpcode 15) ∧
  decode 0x10000400#32 = .error (.nonzeroUnusedField 1) ∧
  decode 0x80000800#32 = .error (.nonzeroUnusedField 8)

/-- R94: a word encodes the command of a row exactly when it meets the row's match under its mask. -/
def Obligations.WordEncodesRowExactlyWhenMasked : Prop :=
  ∀ (w : CmdWord) (o : Opcode), (∃ i, decode w = .ok i ∧ i.opcode = o) ↔ w &&& o.maskBits = o.matchBits

/-- R96 with R95: a word is illegal exactly when its opcode is reserved or it selects a row and misses its mask. -/
def Obligations.IllegalWordsAreReservedOrUnusedNonzero : Prop :=
  ∀ w : CmdWord, (∃ e, decode w = .error e) ↔
    (w.extractLsb' 28 4 = 0 ∨ 9 ≤ (w.extractLsb' 28 4).toNat) ∨
    ∃ o : Opcode, w &&& 0xF0000000#32 = o.matchBits ∧ w &&& o.maskBits ≠ o.matchBits

/-- Every command is what its word decodes to, with every operand at every value. -/
def Obligations.DecodeOfEncodeIsIdentity : Prop :=
  ∀ i : Instr, i.wf = true → decode (encode i) = .ok i

/-- Every word that decodes is the word of what it decodes to: no two words mean one command. -/
def Obligations.EncodeOfDecodeIsIdentity : Prop :=
  ∀ (w : CmdWord) (i : Instr), decode w = .ok i → encode i = w

/-- R105: writing a count above 255 as 255 loses nothing, because the command clamps to the capacity. -/
def Obligations.CountNarrowingIsExact : Prop :=
  ∀ (p : Params) (n : Int), 0 ≤ n →
    (clampNum p (narrowCount n)).toNat = min n.toNat p.capacity.toNat

/-- R108, R109: WRITEN is one WRITE for each byte and its result is their number; WRITEZ is one WRITE for each byte before the
first zero and has no result. R103, R105: the assembler refuses an address outside 0 to 1023, a byte outside 0 to 255 and a
negative count, in every line that has such an operand. -/
def Obligations.AssemblerWritesExpandToSingleBytes : Prop :=
  (∀ bs : List Byte, assemble (.writeN (bs.map (fun b => (b.toNat : Int)))) = some (bs.map .write) ∧
    asmResult (.writeN (bs.map (fun b => (b.toNat : Int)))) = some bs.length) ∧
  (∀ bs rest : List Byte, (∀ b ∈ bs, b ≠ 0) →
    assemble (.writeZ (bs ++ 0 :: rest)) = some (bs.map .write) ∧ assemble (.writeZ bs) = some (bs.map .write) ∧
    asmResult (.writeZ bs) = none) ∧
  (∀ a : Int, (a < 0 ∨ 1023 < a) →
    assemble (.begin a) = none ∧ assemble (.beginTx a) = none ∧ (∀ n, assemble (.req a n) = none) ∧
    ∀ r n, assemble (.reqReg a r n) = none) ∧
  (∀ b : Int, (b < 0 ∨ 255 < b) →
    assemble (.write b) = none ∧ (∀ a n, assemble (.reqReg a b n) = none) ∧
    ∀ bs, b ∈ bs → assemble (.writeN bs) = none) ∧
  (∀ n : Int, n < 0 → (∀ a, assemble (.req a n) = none) ∧ ∀ a r, assemble (.reqReg a r n) = none)

/-! ### The step -/

/-- R91, R101: a word that encodes a command is taken from the port and executed. -/
def Obligations.StepExecutesTakenCommand : Prop :=
  ∀ (s : State) (w : CmdWord) (rest : List HostInput) (i : Instr),
    s.busy = false → s.hostInputs = .command w :: rest → decode w = .ok i →
    step s = exec i { s with hostInputs := rest }

/-- R200: an illegal word is refused with 0x8000, whatever `fault` is, and nothing changes. -/
def Obligations.IllegalWordChangesNothing : Prop :=
  ∀ (s : State) (w : CmdWord) (rest : List HostInput) (e : Illegal),
    s.busy = false → s.hostInputs = .command w :: rest → decode w = .error e →
    step s = .next { s with hostInputs := rest, resp := some 0x8000#16, engGo := none, engReadData := [] }

/-- R189: while `busy` is 1 no command is taken; the state stays as it is. -/
def Obligations.HungSequencerTakesNoCommand : Prop :=
  ∀ (s : State) (w : CmdWord) (rest : List HostInput),
    s.busy = true → s.hostInputs = .command w :: rest → step s = .next s

/-- R232, R230: reset is taken in every state, the hung and the faulted one included, and leaves the reset values; no byte
of either buffer counts as written. The parameters stay, and so do the host's coming actions and the engine's coming answers
(the model's choice, log 10). -/
def Obligations.ResetIsTakenInEveryState : Prop :=
  ∀ (s : State) (rest : List HostInput), s.hostInputs = .reset :: rest →
    ∃ t, step s = .next t ∧ t.params = s.params ∧ t.hostInputs = rest ∧ t.engineAnswers = s.engineAnswers ∧
      t.txBufIdx = 0 ∧ t.txBufOverflow = false ∧ t.rxBufIdx = 0 ∧ t.rxBufLen = 0 ∧ t.descCount = .one ∧
      t.desc0 = { address := 0, view := { space := .tx, offset := 0 }, length := 0, xferred := 0, flags := .write } ∧
      t.desc1 = { address := 0, view := { space := .tx, offset := 0 }, length := 0, xferred := 0, flags := .write } ∧
      t.regScalar = 0 ∧ t.selfAddress = 0 ∧ t.fault = 0 ∧ t.busy = false ∧ t.resp = none ∧ t.engGo = none ∧
      ∀ i, t.txBuf.byteAt? i = none ∧ t.rxBuf.byteAt? i = none

/-- R42, R230: the reset state holds the values of the table. (The parameters of `State.reset` are the model's choice, log 1.) -/
def Obligations.ResetStateHoldsTableValues : Prop :=
  State.reset.txBufIdx = 0 ∧ State.reset.txBufOverflow = false ∧ State.reset.rxBufIdx = 0 ∧ State.reset.rxBufLen = 0 ∧
  State.reset.descCount = .one ∧
  State.reset.desc0 = { address := 0, view := { space := .tx, offset := 0 }, length := 0, xferred := 0, flags := .write } ∧
  State.reset.desc1 = { address := 0, view := { space := .tx, offset := 0 }, length := 0, xferred := 0, flags := .write } ∧
  State.reset.regScalar = 0 ∧ State.reset.selfAddress = 0 ∧ State.reset.fault = 0 ∧ State.reset.busy = false ∧
  ∀ i, State.reset.txBuf.byteAt? i = none ∧ State.reset.rxBuf.byteAt? i = none

/-- R203: while `fault` is not 0 every legal command, BEGIN, AVAIL and READ included, is refused with 0x4000 and changes
nothing; no step but a hardware reset changes `fault` then, and a reset clears it. -/
def Obligations.FaultedSequencerRefusesEveryCommand : Prop :=
  (∀ (i : Instr) (s : State), s.fault ≠ 0 →
    exec i s = .next { s with busy := false, resp := some 0x4000#16, engGo := none, engReadData := [] }) ∧
  (∀ s t : State, s.fault ≠ 0 → (∀ rest, s.hostInputs ≠ .reset :: rest) → step s = .next t → t.fault = s.fault) ∧
  (∀ (s t : State) (rest : List HostInput), s.hostInputs = .reset :: rest → step s = .next t → t.fault = 0)

/-- R90: a command taken gives exactly one response, or it is a dispatching command that waits for ever with `busy` at 1. -/
def Obligations.TakenCommandRespondsOnceOrHangs : Prop :=
  ∀ (s t : State) (w : CmdWord) (rest : List HostInput),
    s.busy = false → s.hostInputs = .command w :: rest → step s = .next t →
    t.hostInputs = rest ∧
    ((t.busy = false ∧ t.resp ≠ none) ∨
     (t.busy = true ∧ t.resp = none ∧ s.fault = 0 ∧
       ∃ i, decode w = .ok i ∧ (i.opcode = .endTx ∨ i.opcode = .req ∨ i.opcode = .reqReg)))

/-- R97: in the response of a legal command `ILL` and bits 13:9 are 0, `DV` is 1 only for READ, and `FLT` comes with nothing
else. -/
def Obligations.ResponseBitsFollowLayout : Prop :=
  ∀ (i : Instr) (s t : State) (r : RespWord), exec i s = .next t → t.resp = some r →
    r.extractLsb' 15 1 = 0 ∧ r.extractLsb' 9 5 = 0 ∧
    (r.extractLsb' 8 1 = 1 → i = .read) ∧
    (r.extractLsb' 14 1 = 1 → r = 0x4000#16 ∧ t.fault ≠ 0)

/-- R221: the status port shows `fault`, the OR of its bits, the overflow flag, `busy` and the local address. -/
def Obligations.StatusPortCopiesRegisters : Prop :=
  ∀ s : State, (statusPort s).fault = s.fault ∧ (statusPort s).txOverflow = s.txBufOverflow ∧
    (statusPort s).busy = s.busy ∧ (statusPort s).selfAddress = s.selfAddress ∧
    ((statusPort s).faultAny = true ↔ ∃ k, k < 4 ∧ s.fault.getLsbD k = true)

/-! ### BEGIN, BEGINTX, WRITE -/

/-- R120: BEGIN's word and its whole effect. -/
def Obligations.BeginEmptiesCursorsAndLatchesAddress : Prop :=
  ∀ (a : DevAddr) (s : State), s.fault = 0 →
    encode (.begin a) = 0x10000000#32 ||| a.setWidth 32 ∧
    exec (.begin a) s = .next
      { s with selfAddress := a, txBufIdx := 0, txBufOverflow := false, rxBufIdx := 0, rxBufLen := 0,
               busy := false, resp := some 0x0000#16, engGo := none, engReadData := [] }

/-- R122 (a): a second BEGIN with the same operand changes nothing. -/
def Obligations.BeginTwiceIsBeginOnce : Prop :=
  ∀ (a : DevAddr) (s t : State), s.fault = 0 → exec (.begin a) s = .next t → exec (.begin a) t = .next t

/-- R131: BEGINTX's word and its whole effect; `xferred` and the transmit buffer are not touched. -/
def Obligations.BeginTxBindsDescriptorAtCursor : Prop :=
  ∀ (a : DevAddr) (s : State), s.fault = 0 →
    encode (.beginTx a) = 0x20000000#32 ||| a.setWidth 32 ∧
    exec (.beginTx a) s = .next
      { s with desc0 := { address := a, view := { space := .tx, offset := s.txBufIdx }, length := 0,
                          xferred := s.desc0.xferred, flags := .write },
               busy := false, resp := some 0x0000#16, engGo := none, engReadData := [] }

/-- R133: WRITE's word and its three arms. With room the byte goes to `tx_buf[tx_buf_idx]` and to no other place, and the
cursor and the length grow by one without wrapping. (A cursor above the capacity is excluded by the premise
`tx_buf_idx <= CAPACITY`, the invariant of R31.) -/
def Obligations.WriteStagesDropsOrFaults : Prop :=
  ∀ (b : Byte) (s : State), s.fault = 0 → s.txBufIdx.toNat ≤ s.params.capacity.toNat →
    encode (.write b) = 0x30000000#32 ||| (b.setWidth 32 <<< 12) ∧
    (s.txBufIdx = s.params.capacity →
      exec (.write b) s = .next
        { s with txBufOverflow := true, busy := false, resp := some 0x0000#16, engGo := none, engReadData := [] }) ∧
    (s.txBufIdx ≠ s.params.capacity → s.desc0.length = 255 →
      exec (.write b) s = .next
        { s with fault := 0b1000#4, busy := false, resp := some 0x4000#16, engGo := none, engReadData := [] }) ∧
    (s.txBufIdx ≠ s.params.capacity → s.desc0.length ≠ 255 →
      ∃ t, exec (.write b) s = .next t ∧
        t = { s with txBuf := t.txBuf, txBufIdx := s.txBufIdx + 1,
                     desc0 := { s.desc0 with length := s.desc0.length + 1 },
                     busy := false, resp := some 0x0000#16, engGo := none, engReadData := [] } ∧
        t.txBufIdx.toNat = s.txBufIdx.toNat + 1 ∧ t.desc0.length.toNat = s.desc0.length.toNat + 1 ∧
        ∀ sp i, memRead sp i t = if sp = .tx ∧ i = s.txBufIdx.toNat then some b else memRead sp i s)

/-! ### ENDTX -/

/-- R136, R137 (a): after an overflow ENDTX returns `EDATA`, starts no engine, and empties the transmit buffer. -/
def Obligations.EndTxAfterOverflowReturnsEdata : Prop :=
  ∀ (stop : Bool) (s : State), s.fault = 0 → s.txBufOverflow = true →
    exec (.endTx stop) s = .next
      { s with txBufIdx := 0, txBufOverflow := false, busy := false, resp := some (0x00#8 ++ s.params.edata),
               engGo := none, engReadData := [] }

/-- R136, R183, R186, R190: ENDTX's word; and ENDTX hands `desc[0]` to the engine with the `sendStop` bit as given and the bytes of its view in
order, latches the count, empties the transmit cursor, and returns the status, whatever it is. The premises
`desc_count = 1` and `flags = WRITE` are R29 and R27 (a). -/
def Obligations.EndTxReturnsEngineStatus : Prop :=
  (∀ stop : Bool, encode (.endTx stop) = if stop then 0x40000800#32 else 0x40000000#32) ∧
  ∀ (stop : Bool) (s : State) (a : EngineAnswer) (rest : List EngineAnswer) (d : EngineDone),
    s.fault = 0 → s.txBufOverflow = false → s.descCount = .one → s.desc0.flags = .write →
    s.desc0.view.space ≠ .reserved →
    s.desc0.view.offset.toNat + s.desc0.length.toNat ≤ bound s.params s.desc0.view.space →
    s.engineAnswers = a :: rest → a.done = some d → d.xferred0.toNat ≤ s.desc0.length.toNat →
    ∃ t data, exec (.endTx stop) s = .next t ∧
      t = { s with txBufIdx := 0, desc0 := { s.desc0 with xferred := d.xferred0 }, engineAnswers := rest,
                   busy := false, resp := some (0x00#8 ++ d.status),
                   engGo := some { sendStop := stop, count := .one,
                                   descs := [{ address := s.desc0.address, flags := .write,
                                               length := s.desc0.length, data := data }] },
                   engReadData := t.engReadData, freeDraws := t.freeDraws } ∧
      data.length = s.desc0.length.toNat ∧
      (∀ p, p < s.desc0.length.toNat →
        data[p]? = memRead s.desc0.view.space (s.desc0.view.offset.toNat + p) s) ∧
      ∀ sp i, memRead sp i t = memRead sp i s

/-! ### REQ, REQREG -/

/-- R151, R157, R190, R71: REQ's word; and a REQ that the engine completes. The READ descriptor is bound at `rx_buf_idx`, the count is added to
`rx_buf_len` and the sum is returned; the bytes the engine gave stand in the view, and only bytes inside it can differ. The premise `desc_count = 1` is R29. -/
def Obligations.ReqAccumulatesTransferredCount : Prop :=
  (∀ (addr : DevAddr) (num : Byte),
    encode (.req addr num) = 0x50000000#32 ||| (num.setWidth 32 <<< 20) ||| addr.setWidth 32) ∧
  ∀ (addr : DevAddr) (num m : Byte) (s : State) (a : EngineAnswer) (rest : List EngineAnswer) (d : EngineDone),
    s.fault = 0 → s.descCount = .one → m.toNat = min num.toNat s.params.capacity.toNat →
    s.rxBufIdx.toNat + m.toNat ≤ s.params.capacity.toNat →
    s.engineAnswers = a :: rest → a.done = some d → d.xferred0.toNat ≤ m.toNat →
    s.rxBufLen.toNat + d.xferred0.toNat ≤ s.params.capacity.toNat →
    ∃ t, exec (.req addr num) s = .next t ∧
      t = { s with desc0 := { address := addr, view := { space := .rx, offset := s.rxBufIdx }, length := m,
                              xferred := d.xferred0, flags := .write },
                   rxBufLen := s.rxBufLen + d.xferred0, rxBuf := t.rxBuf, engineAnswers := rest,
                   busy := false, resp := some (0x00#8 ++ (s.rxBufLen + d.xferred0)),
                   engGo := some { sendStop := true, count := .one,
                                   descs := [{ address := addr, flags := .read, length := m, data := [] }] },
                   engReadData := t.engReadData, freeDraws := t.freeDraws } ∧
      t.rxBufLen.toNat = s.rxBufLen.toNat + d.xferred0.toNat ∧
      sameBytesOutside s.rxBufIdx.toNat m.toNat s t ∧ receivedBytesAt a 0 s.rxBufIdx.toNat m.toNat t

/-- R155, R157, R190, R71: REQREG's word; and a REQREG that the engine completes. Both descriptors reach the engine, `desc[0]` with the register
byte; the count of `desc[1]` is added; `desc_count` is 1 again and the READ flag is cleared. -/
def Obligations.ReqRegAccumulatesSecondCount : Prop :=
  (∀ (addr : DevAddr) (reg num : Byte),
    encode (.reqReg addr reg num) =
      0x60000000#32 ||| (num.setWidth 32 <<< 20) ||| (reg.setWidth 32 <<< 12) ||| addr.setWidth 32) ∧
  ∀ (addr : DevAddr) (reg num m : Byte) (s : State) (a : EngineAnswer) (rest : List EngineAnswer) (d : EngineDone),
    s.fault = 0 → m.toNat = min num.toNat s.params.capacity.toNat →
    s.rxBufIdx.toNat + m.toNat ≤ s.params.capacity.toNat →
    s.engineAnswers = a :: rest → a.done = some d → d.xferred0.toNat ≤ 1 → d.xferred1.toNat ≤ m.toNat →
    s.rxBufLen.toNat + d.xferred1.toNat ≤ s.params.capacity.toNat →
    ∃ t, exec (.reqReg addr reg num) s = .next t ∧
      t = { s with regScalar := reg,
                   desc0 := { address := addr, view := { space := .reg, offset := 0 }, length := 1,
                              xferred := d.xferred0, flags := .write },
                   desc1 := { address := addr, view := { space := .rx, offset := s.rxBufIdx }, length := m,
                              xferred := d.xferred1, flags := .write },
                   descCount := .one,
                   rxBufLen := s.rxBufLen + d.xferred1, rxBuf := t.rxBuf, engineAnswers := rest,
                   busy := false, resp := some (0x00#8 ++ (s.rxBufLen + d.xferred1)),
                   engGo := some { sendStop := true, count := .two,
                                   descs := [{ address := addr, flags := .write, length := 1, data := [reg] },
                                             { address := addr, flags := .read, length := m, data := [] }] },
                   engReadData := t.engReadData, freeDraws := t.freeDraws } ∧
      t.rxBufLen.toNat = s.rxBufLen.toNat + d.xferred1.toNat ∧
      memRead .reg 0 t = some reg ∧ sameBytesOutside s.rxBufIdx.toNat m.toNat s t ∧ receivedBytesAt a 1 s.rxBufIdx.toNat m.toNat t

/-! ### AVAIL, READ -/

/-- R170: AVAIL's word and its result; it writes nothing. The premise is the invariant of R35. -/
def Obligations.AvailReturnsUnreadCount : Prop :=
  ∀ s : State, s.fault = 0 → s.rxBufIdx.toNat ≤ s.rxBufLen.toNat →
    encode .avail = 0x70000000#32 ∧
    ∃ v : Byte, v.toNat = s.rxBufLen.toNat - s.rxBufIdx.toNat ∧
      exec .avail s = .next { s with busy := false, resp := some (0x00#8 ++ v), engGo := none, engReadData := [] }

/-- R172: READ's word and its three arms. The premises are the invariant of R35. -/
def Obligations.ReadReturnsNextByteOrSentinel : Prop :=
  ∀ s : State, s.fault = 0 → s.rxBufIdx.toNat ≤ s.rxBufLen.toNat → s.rxBufLen.toNat ≤ s.params.capacity.toNat →
    encode .read = 0x80000000#32 ∧
    (s.rxBufIdx.toNat = s.rxBufLen.toNat →
      exec .read s = .next
        { s with rxBufIdx := 0, rxBufLen := 0, busy := false, resp := some 0x0000#16, engGo := none, engReadData := [] }) ∧
    (s.rxBufIdx.toNat < s.rxBufLen.toNat → ∃ v, memRead .rx s.rxBufIdx.toNat s = some v ∧
      (s.rxBufIdx.toNat + 1 = s.rxBufLen.toNat →
        exec .read s = .next
          { s with rxBufIdx := 0, rxBufLen := 0, busy := false, resp := some (0x01#8 ++ v), engGo := none,
                   engReadData := [] }) ∧
      (s.rxBufIdx.toNat + 1 < s.rxBufLen.toNat →
        exec .read s = .next
          { s with rxBufIdx := s.rxBufIdx + 1, busy := false, resp := some (0x01#8 ++ v), engGo := none,
                   engReadData := [] } ∧
        (s.rxBufIdx + 1).toNat = s.rxBufIdx.toNat + 1))

/-! ### Faults and the hang -/

/-- R204: the three commands that dispatch raise VIEW when an active view runs out of its space; the engine is not started,
no answer is consumed, and the writes before the dispatch stay. -/
def Obligations.ViewOutOfBoundsStartsNoEngine : Prop :=
  (∀ (stop : Bool) (s : State), s.fault = 0 → s.txBufOverflow = false → s.descCount = .one →
    (s.desc0.view.space = .reserved ∨
      bound s.params s.desc0.view.space < s.desc0.view.offset.toNat + s.desc0.length.toNat) →
    exec (.endTx stop) s = .next
      { s with fault := 0b0001#4, busy := false, resp := some 0x4000#16, engGo := none, engReadData := [] }) ∧
  (∀ (addr : DevAddr) (num m : Byte) (s : State), s.fault = 0 → s.descCount = .one →
    m.toNat = min num.toNat s.params.capacity.toNat → s.params.capacity.toNat < s.rxBufIdx.toNat + m.toNat →
    exec (.req addr num) s = .next
      { s with fault := 0b0001#4,
               desc0 := { address := addr, view := { space := .rx, offset := s.rxBufIdx }, length := m,
                          xferred := s.desc0.xferred, flags := .read },
               busy := false, resp := some 0x4000#16, engGo := none, engReadData := [] }) ∧
  (∀ (addr : DevAddr) (reg num m : Byte) (s : State), s.fault = 0 →
    m.toNat = min num.toNat s.params.capacity.toNat → s.params.capacity.toNat < s.rxBufIdx.toNat + m.toNat →
    exec (.reqReg addr reg num) s = .next
      { s with fault := 0b0001#4, regScalar := reg, descCount := .two,
               desc0 := { address := addr, view := { space := .reg, offset := 0 }, length := 1,
                          xferred := s.desc0.xferred, flags := .write },
               desc1 := { address := addr, view := { space := .rx, offset := s.rxBufIdx }, length := m,
                          xferred := s.desc1.xferred, flags := .read },
               busy := false, resp := some 0x4000#16, engGo := none, engReadData := [] })

/-- R205, R187: a count above the length raises XFER after the counts are latched; the command's later lines do not run
(ENDTX empties nothing, a request adds nothing and its READ flag stays). -/
def Obligations.CountAboveLengthRaisesXfer : Prop :=
  (∀ (stop : Bool) (s : State) (a : EngineAnswer) (rest : List EngineAnswer) (d : EngineDone),
    s.fault = 0 → s.txBufOverflow = false → s.descCount = .one → s.desc0.flags = .write →
    s.desc0.view.space ≠ .reserved →
    s.desc0.view.offset.toNat + s.desc0.length.toNat ≤ bound s.params s.desc0.view.space →
    s.engineAnswers = a :: rest → a.done = some d → s.desc0.length.toNat < d.xferred0.toNat →
    ∃ t, exec (.endTx stop) s = .next t ∧
      t = { s with fault := 0b0010#4, desc0 := { s.desc0 with xferred := d.xferred0 }, engineAnswers := rest,
                   busy := false, resp := some 0x4000#16, engGo := t.engGo, engReadData := t.engReadData,
                   freeDraws := t.freeDraws } ∧ t.engGo ≠ none) ∧
  (∀ (addr : DevAddr) (num m : Byte) (s : State) (a : EngineAnswer) (rest : List EngineAnswer) (d : EngineDone),
    s.fault = 0 → s.descCount = .one → m.toNat = min num.toNat s.params.capacity.toNat →
    s.rxBufIdx.toNat + m.toNat ≤ s.params.capacity.toNat →
    s.engineAnswers = a :: rest → a.done = some d → m.toNat < d.xferred0.toNat →
    ∃ t, exec (.req addr num) s = .next t ∧
      t = { s with fault := 0b0010#4,
                   desc0 := { address := addr, view := { space := .rx, offset := s.rxBufIdx }, length := m,
                              xferred := d.xferred0, flags := .read },
                   rxBuf := t.rxBuf, engineAnswers := rest,
                   busy := false, resp := some 0x4000#16, engGo := t.engGo, engReadData := t.engReadData,
                   freeDraws := t.freeDraws } ∧ t.engGo ≠ none ∧
      sameBytesOutside s.rxBufIdx.toNat m.toNat s t ∧ receivedBytesAt a 0 s.rxBufIdx.toNat m.toNat t) ∧
  (∀ (addr : DevAddr) (reg num m : Byte) (s : State) (a : EngineAnswer) (rest : List EngineAnswer) (d : EngineDone),
    s.fault = 0 → m.toNat = min num.toNat s.params.capacity.toNat →
    s.rxBufIdx.toNat + m.toNat ≤ s.params.capacity.toNat →
    s.engineAnswers = a :: rest → a.done = some d → (1 < d.xferred0.toNat ∨ m.toNat < d.xferred1.toNat) →
    ∃ t, exec (.reqReg addr reg num) s = .next t ∧
      t = { s with fault := 0b0010#4, regScalar := reg, descCount := .two,
                   desc0 := { address := addr, view := { space := .reg, offset := 0 }, length := 1,
                              xferred := d.xferred0, flags := .write },
                   desc1 := { address := addr, view := { space := .rx, offset := s.rxBufIdx }, length := m,
                              xferred := d.xferred1, flags := .read },
                   rxBuf := t.rxBuf, engineAnswers := rest,
                   busy := false, resp := some 0x4000#16, engGo := t.engGo, engReadData := t.engReadData,
                   freeDraws := t.freeDraws } ∧ t.engGo ≠ none ∧
      sameBytesOutside s.rxBufIdx.toNat m.toNat s t ∧ receivedBytesAt a 1 s.rxBufIdx.toNat m.toNat t)

/-- R207: a sum above the capacity raises RXLEN after the dispatch; `rx_buf_len` is not updated and the READ flag stays. -/
def Obligations.ReceiveLengthAboveCapacityRaisesRxlen : Prop :=
  (∀ (addr : DevAddr) (num m : Byte) (s : State) (a : EngineAnswer) (rest : List EngineAnswer) (d : EngineDone),
    s.fault = 0 → s.descCount = .one → m.toNat = min num.toNat s.params.capacity.toNat →
    s.rxBufIdx.toNat + m.toNat ≤ s.params.capacity.toNat →
    s.engineAnswers = a :: rest → a.done = some d → d.xferred0.toNat ≤ m.toNat →
    s.params.capacity.toNat < s.rxBufLen.toNat + d.xferred0.toNat →
    ∃ t, exec (.req addr num) s = .next t ∧
      t = { s with fault := 0b0100#4,
                   desc0 := { address := addr, view := { space := .rx, offset := s.rxBufIdx }, length := m,
                              xferred := d.xferred0, flags := .read },
                   rxBuf := t.rxBuf, engineAnswers := rest,
                   busy := false, resp := some 0x4000#16, engGo := t.engGo, engReadData := t.engReadData,
                   freeDraws := t.freeDraws } ∧ t.engGo ≠ none ∧
      sameBytesOutside s.rxBufIdx.toNat m.toNat s t ∧ receivedBytesAt a 0 s.rxBufIdx.toNat m.toNat t) ∧
  (∀ (addr : DevAddr) (reg num m : Byte) (s : State) (a : EngineAnswer) (rest : List EngineAnswer) (d : EngineDone),
    s.fault = 0 → m.toNat = min num.toNat s.params.capacity.toNat →
    s.rxBufIdx.toNat + m.toNat ≤ s.params.capacity.toNat →
    s.engineAnswers = a :: rest → a.done = some d → d.xferred0.toNat ≤ 1 → d.xferred1.toNat ≤ m.toNat →
    s.params.capacity.toNat < s.rxBufLen.toNat + d.xferred1.toNat →
    ∃ t, exec (.reqReg addr reg num) s = .next t ∧
      t = { s with fault := 0b0100#4, regScalar := reg, descCount := .two,
                   desc0 := { address := addr, view := { space := .reg, offset := 0 }, length := 1,
                              xferred := d.xferred0, flags := .write },
                   desc1 := { address := addr, view := { space := .rx, offset := s.rxBufIdx }, length := m,
                              xferred := d.xferred1, flags := .read },
                   rxBuf := t.rxBuf, engineAnswers := rest,
                   busy := false, resp := some 0x4000#16, engGo := t.engGo, engReadData := t.engReadData,
                   freeDraws := t.freeDraws } ∧ t.engGo ≠ none ∧
      sameBytesOutside s.rxBufIdx.toNat m.toNat s t ∧ receivedBytesAt a 1 s.rxBufIdx.toNat m.toNat t)

/-- R189: when the engine never completes (its answer says so, or there is none: log 5), the command gives no response,
`busy` stays 1, no fault is set, and the writes before the dispatch stay. -/
def Obligations.UnansweredDispatchHangs : Prop :=
  ∀ s : State, s.fault = 0 → (s.engineAnswers = [] ∨ ∃ a rest, s.engineAnswers = a :: rest ∧ a.done = none) →
    (∀ stop : Bool, s.txBufOverflow = false → s.descCount = .one → s.desc0.flags = .write →
      s.desc0.view.space ≠ .reserved →
      s.desc0.view.offset.toNat + s.desc0.length.toNat ≤ bound s.params s.desc0.view.space →
      ∃ t, exec (.endTx stop) s = .next t ∧
        t = { s with busy := true, resp := none, engineAnswers := s.engineAnswers.tail, engGo := t.engGo,
                     engReadData := t.engReadData, freeDraws := t.freeDraws } ∧ t.engGo ≠ none) ∧
    (∀ (addr : DevAddr) (num m : Byte), s.descCount = .one →
      m.toNat = min num.toNat s.params.capacity.toNat → s.rxBufIdx.toNat + m.toNat ≤ s.params.capacity.toNat →
      ∃ t, exec (.req addr num) s = .next t ∧
        t = { s with desc0 := { address := addr, view := { space := .rx, offset := s.rxBufIdx }, length := m,
                                xferred := s.desc0.xferred, flags := .read },
                     busy := true, resp := none, engineAnswers := s.engineAnswers.tail, rxBuf := t.rxBuf,
                     engGo := t.engGo, engReadData := t.engReadData, freeDraws := t.freeDraws } ∧ t.engGo ≠ none ∧
      sameBytesOutside s.rxBufIdx.toNat m.toNat s t) ∧
    (∀ (addr : DevAddr) (reg num m : Byte),
      m.toNat = min num.toNat s.params.capacity.toNat → s.rxBufIdx.toNat + m.toNat ≤ s.params.capacity.toNat →
      ∃ t, exec (.reqReg addr reg num) s = .next t ∧
        t = { s with regScalar := reg, descCount := .two,
                     desc0 := { address := addr, view := { space := .reg, offset := 0 }, length := 1,
                                xferred := s.desc0.xferred, flags := .write },
                     desc1 := { address := addr, view := { space := .rx, offset := s.rxBufIdx }, length := m,
                                xferred := s.desc1.xferred, flags := .read },
                     busy := true, resp := none, engineAnswers := s.engineAnswers.tail, rxBuf := t.rxBuf,
                     engGo := t.engGo, engReadData := t.engReadData, freeDraws := t.freeDraws } ∧ t.engGo ≠ none ∧
      sameBytesOutside s.rxBufIdx.toNat m.toNat s t)

/-- R201: which command can set which bit of `fault`, and at most one of them. -/
def Obligations.OnlyNamedCommandsRaiseEachFault : Prop :=
  ∀ (i : Instr) (s t : State), s.fault = 0 → exec i s = .next t →
    t.fault = 0 ∨
    (t.fault = 0b0001#4 ∧ (i.opcode = .endTx ∨ i.opcode = .req ∨ i.opcode = .reqReg)) ∨
    (t.fault = 0b0010#4 ∧ (i.opcode = .endTx ∨ i.opcode = .req ∨ i.opcode = .reqReg)) ∨
    (t.fault = 0b0100#4 ∧ (i.opcode = .req ∨ i.opcode = .reqReg)) ∨
    (t.fault = 0b1000#4 ∧ i.opcode = .write)

/-! ### The engine's accesses -/

/-- R70: whatever the engine asks for on its buffer port, it changes no byte outside the view of an active READ descriptor,
and neither `tx_buf` nor `reg_scalar` nor any other register. -/
def Obligations.EngineChangesOnlyReadViews : Prop :=
  ∀ (as : List EngineAccess) (s : State),
    onlyEngineTouched s (serveAccesses as s) ∧
    (∀ i, ¬inReadView s i → memRead .rx i (serveAccesses as s) = memRead .rx i s) ∧
    (∀ i, memRead .tx i (serveAccesses as s) = memRead .tx i s) ∧
    memRead .reg 0 (serveAccesses as s) = memRead .reg 0 s

/-- R69: an admitted read is answered with the byte of the view and changes nothing; one that is not admitted changes nothing
but the model's count of free draws (log 3). -/
def Obligations.EngineReadAnswersViewByte : Prop :=
  ∀ (k p : Nat) (s : State),
    (∀ d, activeDesc? k s = some d → d.flags = .write → p < d.length.toNat →
      d.view.space ≠ .reserved → d.view.offset.toNat + d.length.toNat ≤ bound s.params d.view.space →
      ∃ b, memRead d.view.space (d.view.offset.toNat + p) s = some b ∧
        serveAccess (.read k p) s = { s with engReadData := s.engReadData ++ [b] }) ∧
    ((∀ d, activeDesc? k s = some d → d.flags = .read ∨ d.length.toNat ≤ p) →
      ∃ b, serveAccess (.read k p) s = { s with engReadData := s.engReadData ++ [b], freeDraws := s.freeDraws + 1 })

/-- R71, R191: an answer that gives a READ view `length` bytes replaces the whole view by them, first byte at `offset`. -/
def Obligations.AnsweredBytesReplaceView : Prop :=
  ∀ (s : State) (k : Nat) (d : Descriptor) (bytes : List Byte),
    activeDesc? k s = some d → d.flags = .read → d.view.space = .rx →
    d.view.offset.toNat + d.length.toNat ≤ s.params.capacity.toNat → bytes.length = d.length.toNat →
    ∀ p, p < d.length.toNat →
      memRead .rx (d.view.offset.toNat + p) (serveAccesses (fillView k 0 bytes) s) = bytes[p]?

/-- R192, R71: under `EngineWritesPrefixOnly` a completed REQ or REQREG leaves the bytes of RX from the reported count on as
they were. -/
def Obligations.PrefixOnlyEngineKeepsRestOfView : Prop :=
  ∀ (addr : DevAddr) (num : Byte) (s t : State) (a : EngineAnswer) (rest : List EngineAnswer) (d : EngineDone),
    s.fault = 0 → s.engineAnswers = a :: rest → a.done = some d →
    (s.descCount = .one → a.writesPrefixOnly (stageReq addr num s) → exec (.req addr num) s = .next t → t.fault = 0 →
      ∀ i, s.rxBufIdx.toNat + d.xferred0.toNat ≤ i → memRead .rx i t = memRead .rx i s) ∧
    (∀ reg : Byte, a.writesPrefixOnly (stageReqReg addr reg num s) → exec (.reqReg addr reg num) s = .next t →
      t.fault = 0 → ∀ i, s.rxBufIdx.toNat + d.xferred1.toNat ≤ i → memRead .rx i t = memRead .rx i s)

/-- R192, R256: when the engine's next answer completes, no command hangs. -/
def Obligations.TerminatingEngineNeverHangs : Prop :=
  ∀ (i : Instr) (s t : State) (a : EngineAnswer) (rest : List EngineAnswer),
    s.engineAnswers = a :: rest → a.terminates → exec i s = .next t → t.busy = false

/-- R192: under `EngineCountsWithinLength` a dispatch raises no fault but VIEW. -/
def Obligations.CountsWithinLengthNeverRaiseXfer : Prop :=
  ∀ (stop : Bool) (s u : State) (a : EngineAnswer) (rest : List EngineAnswer),
    s.engineAnswers = a :: rest → a.countsWithinLength s → dispatch stop s = .raised u →
    u.fault = s.fault ||| 0b0001#4 ∧ u.engineAnswers = s.engineAnswers

/-- R139, R153: what a command does to the sequencer does not depend on the engine's status; only ENDTX's response does. -/
def Obligations.StatusReachesOnlyEndTxResponse : Prop :=
  ∀ (i : Instr) (s s' t : State) (a : EngineAnswer) (rest : List EngineAnswer) (d : EngineDone) (st : Byte),
    s.engineAnswers = a :: rest → a.done = some d →
    s' = { s with engineAnswers := { a with done := some { d with status := st } } :: rest } →
    exec i s = .next t →
    ∃ t', exec i s' = .next t' ∧ t = { t' with engineAnswers := t.engineAnswers, resp := t.resp } ∧
      (i.opcode ≠ .endTx → t'.resp = t.resp)

/-! ### Whole-machine rules -/

/-- R28, R30, R33, R36, R38, R72: which command writes which register and buffer. The premises are R29 and R27 (a). -/
def Obligations.OnlyNamedCommandsWriteEachRegister : Prop :=
  ∀ (i : Instr) (s t : State), s.descCount = .one → s.desc0.flags = .write → exec i s = .next t →
    t.params = s.params ∧ t.hostInputs = s.hostInputs ∧ t.ramEpoch = s.ramEpoch ∧
    (i.opcode ≠ .begin → t.selfAddress = s.selfAddress) ∧
    (i.opcode ≠ .write → t.txBuf = s.txBuf) ∧
    (i.opcode ≠ .req → i.opcode ≠ .reqReg → t.rxBuf = s.rxBuf) ∧
    (i.opcode ≠ .reqReg → t.regScalar = s.regScalar ∧ t.desc1 = s.desc1 ∧ t.descCount = s.descCount) ∧
    (i.opcode ≠ .begin → i.opcode ≠ .write → i.opcode ≠ .endTx →
      t.txBufIdx = s.txBufIdx ∧ t.txBufOverflow = s.txBufOverflow) ∧
    (i.opcode ≠ .begin → i.opcode ≠ .read → t.rxBufIdx = s.rxBufIdx) ∧
    (i.opcode ≠ .begin → i.opcode ≠ .read → i.opcode ≠ .req → i.opcode ≠ .reqReg → t.rxBufLen = s.rxBufLen) ∧
    (i.opcode = .begin ∨ i.opcode = .avail ∨ i.opcode = .read → t.desc0 = s.desc0) ∧
    (i.opcode = .endTx → t.desc0 = { s.desc0 with xferred := t.desc0.xferred }) ∧
    (i.opcode = .write → t.desc0 = { s.desc0 with length := t.desc0.length })

/-- The invariant holds of every reset instance whose parameters meet R8 and R10 (the model's choice of parameters, log 1). -/
def Obligations.ResetStateSatisfiesInv : Prop :=
  Inv State.reset ∧
  ∀ (p : Params) (epoch draws : Nat) (inputs : List HostInput) (answers : List EngineAnswer),
    p.wf = true → Inv (State.resetWith p epoch draws inputs answers)

/-- R24, R27, R29, R31, R35, R39, R42: every step keeps the invariant. -/
def Obligations.EveryStepKeepsInv : Prop :=
  ∀ s t : State, Inv s → step s = .next t → Inv t

/-- U16 of 93_implementation_defined.md: every command is total. From a state that meets the invariant every step goes on:
the model's own stops are never reached (log 8). -/
def Obligations.InvStatesAlwaysStep : Prop :=
  ∀ s : State, Inv s → ∃ t, step s = .next t

/-- R173 (d): draining returns each buffered byte in order with `DV` 1, then the sentinel with `DV` 0 for ever. -/
def Obligations.DrainReturnsBytesInOrder : Prop :=
  ∀ (s : State) (n k : Nat), s.fault = 0 → s.rxBufIdx.toNat + n = s.rxBufLen.toNat →
    s.rxBufLen.toNat ≤ s.params.capacity.toNat →
    respSeq (List.replicate (n + k) .read) s =
      (List.range n).map (fun p => (memRead .rx (s.rxBufIdx.toNat + p) s).map (fun v => 0x01#8 ++ v)) ++
        List.replicate k (some 0x0000#16)

/-- R135: after BEGINTX on an empty transmit buffer, up to `CAPACITY` WRITEs are staged in order and counted; the next one
sets the overflow flag and changes nothing else. -/
def Obligations.WritesUpToCapacityAreStaged : Prop :=
  ∀ (addr : DevAddr) (bs : List Byte) (s : State),
    s.fault = 0 → s.txBufIdx = 0 → s.txBufOverflow = false → bs.length ≤ s.params.capacity.toNat →
    ∃ t, execSeq (.beginTx addr :: bs.map .write) s = .next t ∧
      t.txBufIdx.toNat = bs.length ∧ t.desc0.length.toNat = bs.length ∧ t.txBufOverflow = false ∧ t.fault = 0 ∧
      (∀ p, p < bs.length → memRead .tx p t = bs[p]?) ∧
      (bs.length = s.params.capacity.toNat → ∀ b, exec (.write b) t = .next
        { t with txBufOverflow := true, busy := false, resp := some 0x0000#16, engGo := none, engReadData := [] })

/-- R65, R183, and the source's write scenario (V1): a write transaction gives the engine one WRITE descriptor with the
address, the length and the bytes in the order written, and `sendStop` as given; the host gets the engine's status. -/
def Obligations.WriteTransactionReachesEngine : Prop :=
  ∀ (addr : DevAddr) (bs : List Byte) (stop : Bool) (s : State) (a : EngineAnswer) (rest : List EngineAnswer)
    (d : EngineDone),
    s.fault = 0 → s.txBufIdx = 0 → s.txBufOverflow = false → s.descCount = .one →
    bs.length ≤ s.params.capacity.toNat →
    s.engineAnswers = a :: rest → a.done = some d → d.xferred0.toNat ≤ bs.length →
    ∃ t, execSeq (.beginTx addr :: (bs.map .write ++ [.endTx stop])) s = .next t ∧
      t.engGo = some { sendStop := stop, count := .one,
                       descs := [{ address := addr, flags := .write, length := BitVec.ofNat 8 bs.length, data := bs }] } ∧
      t.resp = some (0x00#8 ++ d.status) ∧ t.txBufIdx = 0 ∧ t.txBufOverflow = false ∧ t.fault = 0 ∧
      t.busy = false ∧ t.engineAnswers = rest

/-- The source's register-read scenario (V2; R155, R170, R172): on an empty receive buffer a REQREG whose answer gives the
view `bytes` and counts `x` of them returns `x`, AVAIL returns `x`, and `x` READs return the first `x` bytes in order. -/
def Obligations.RegisterReadDrainsEngineBytes : Prop :=
  ∀ (addr : DevAddr) (reg num m st x0 x1 : Byte) (bytes : List Byte) (s : State) (rest : List EngineAnswer),
    s.fault = 0 → s.rxBufIdx = 0 → s.rxBufLen = 0 → m.toNat = min num.toNat s.params.capacity.toNat →
    bytes.length = m.toNat → x0.toNat ≤ 1 → x1.toNat ≤ m.toNat →
    s.engineAnswers = EngineAnswer.doneWith st x0 x1 1 bytes :: rest →
    respSeq (.reqReg addr reg num :: .avail :: List.replicate x1.toNat .read) s =
      some (0x00#8 ++ x1) :: some (0x00#8 ++ x1) :: (bytes.take x1.toNat).map (fun b => some (0x01#8 ++ b))

/-- R192, R65: under `EngineSendsViewInOrder` the bytes that ENDTX's dispatch puts on the bus are the bytes written, in the
order written: those counted at least, and all of them when all are counted (log 15). -/
def Obligations.WrittenBytesGoOnTheBusInOrder : Prop :=
  ∀ (addr : DevAddr) (bs : List Byte) (s : State) (a : EngineAnswer) (d : EngineDone) (bus : Nat → List Byte),
    s.fault = 0 → s.txBufIdx = 0 → s.descCount = .one → bs.length ≤ s.params.capacity.toNat → a.done = some d →
    d.xferred0.toNat ≤ bs.length →
    ∃ u, execSeq (.beginTx addr :: bs.map .write) s = .next u ∧
      (a.sendsViewInOrder bus u → bus 0 <+: bs ∧ d.xferred0.toNat ≤ (bus 0).length ∧
        (d.xferred0.toNat = bs.length → bus 0 = bs))
end

