-- ==== Sys2Proof/Laws/Encoding.lean ====
section
/-! SUPPORT. The layout of a command word (spec/30_encoding.md R92): packing and unpacking are inverse, and a mask acts on
each field by itself. -/

namespace Sys2Proof

/-- The fields of a packed word are the fields packed. -/
theorem unpack_pack (f : Fields) : unpack (pack f) = f := by
  obtain ⟨op, num, data, s, z, addr⟩ := f
  simp only [unpack, pack, Fields.mk.injEq]
  refine ⟨?_, ?_, ?_, ?_, ?_, ?_⟩ <;>
  · apply BitVec.eq_of_getElem_eq
    intro i hi
    simp only [BitVec.getElem_extractLsb', BitVec.getLsbD_append]
    grind

/-- No bit of a word lies outside its fields. -/
theorem pack_unpack (w : CmdWord) : pack (unpack w) = w := by
  apply BitVec.eq_of_getElem_eq
  intro i hi
  simp only [unpack, pack]
  grind

theorem pack_inj {f g : Fields} (h : pack f = pack g) : f = g := by
  rw [← unpack_pack f, h, unpack_pack]

/-- A mask acts on each field by itself. -/
theorem pack_and_pack (f g : Fields) :
    pack f &&& pack g =
      pack { op := f.op &&& g.op, num := f.num &&& g.num, data := f.data &&& g.data, s := f.s &&& g.s,
             z := f.z &&& g.z, addr := f.addr &&& g.addr } := by
  apply BitVec.eq_of_getElem_eq
  intro i hi
  simp only [pack, BitVec.getElem_append, BitVec.getElem_and]
  grind

/-- As for a mask, so for a union of fields. -/
theorem pack_or_pack (f g : Fields) :
    pack f ||| pack g =
      pack { op := f.op ||| g.op, num := f.num ||| g.num, data := f.data ||| g.data, s := f.s ||| g.s,
             z := f.z ||| g.z, addr := f.addr ||| g.addr } := by
  apply BitVec.eq_of_getElem_eq
  intro i hi
  simp only [pack, BitVec.getElem_append, BitVec.getElem_or]
  grind

/-- `ADDR` alone, at its place in the word (R92). -/
theorem addr_eq_pack (a : DevAddr) : a.setWidth 32 = pack { op := 0, num := 0, data := 0, s := 0, z := 0, addr := a } := by
  apply BitVec.eq_of_getElem_eq
  intro i hi
  simp only [pack]
  grind

/-- Likewise `DATA`. -/
theorem data_eq_pack (b : Byte) : b.setWidth 32 <<< 12 = pack { op := 0, num := 0, data := b, s := 0, z := 0, addr := 0 } := by
  apply BitVec.eq_of_getElem_eq
  intro i hi
  simp only [pack]
  grind

/-- Likewise `NUM`. -/
theorem num_eq_pack (n : Byte) : n.setWidth 32 <<< 20 = pack { op := 0, num := n, data := 0, s := 0, z := 0, addr := 0 } := by
  apply BitVec.eq_of_getElem_eq
  intro i hi
  simp only [pack]
  grind

/-- The masks of R94, field by field. -/
def Opcode.maskFields : Opcode → Fields
  | .begin | .beginTx => { op := 15, num := 255, data := 255, s := 1, z := 1, addr := 0 }
  | .write => { op := 15, num := 255, data := 0, s := 1, z := 1, addr := 1023 }
  | .endTx => { op := 15, num := 255, data := 255, s := 0, z := 1, addr := 1023 }
  | .req => { op := 15, num := 0, data := 255, s := 1, z := 1, addr := 0 }
  | .reqReg => { op := 15, num := 0, data := 0, s := 1, z := 1, addr := 0 }
  | .avail | .read => { op := 15, num := 255, data := 255, s := 1, z := 1, addr := 1023 }

/-- The matches of R94, field by field. -/
def Opcode.matchFields (o : Opcode) : Fields where
  op   := match o with
    | .begin => 1 | .beginTx => 2 | .write => 3 | .endTx => 4 | .req => 5 | .reqReg => 6 | .avail => 7 | .read => 8
  num  := 0
  data := 0
  s    := 0
  z    := 0
  addr := 0

theorem Opcode.maskBits_eq (o : Opcode) : o.maskBits = pack o.maskFields := by cases o <;> decide

theorem Opcode.matchBits_eq (o : Opcode) : o.matchBits = pack o.matchFields := by cases o <;> decide

/-- A word meets a row's match and mask exactly when its fields do. -/
theorem masked_iff (w : CmdWord) (o : Opcode) :
    w &&& o.maskBits = o.matchBits ↔
      (unpack w).op &&& o.maskFields.op = o.matchFields.op ∧ (unpack w).num &&& o.maskFields.num = 0 ∧
      (unpack w).data &&& o.maskFields.data = 0 ∧ (unpack w).s &&& o.maskFields.s = 0 ∧
      (unpack w).z &&& o.maskFields.z = 0 ∧ (unpack w).addr &&& o.maskFields.addr = 0 := by
  rw [Opcode.maskBits_eq, Opcode.matchBits_eq]
  conv_lhs => rw [← pack_unpack w, pack_and_pack]
  constructor
  · intro h
    have := pack_inj h
    simp only [Fields.mk.injEq, Opcode.matchFields] at this
    exact this
  · rintro ⟨h1, h2, h3, h4, h5, h6⟩
    rw [h1, h2, h3, h4, h5, h6]
    rfl

end Sys2Proof
end

