-- ==== Sys2Proof/Laws/Memory.lean ====
section
/-! SUPPORT. The laws of the buffers: a read after a write, every other byte unchanged, and the canonical form kept. -/

namespace Sys2Proof.Machine

open Sys2Proof

/-- A read after a store, at the index stored to and at every other. -/
theorem Memory.byteAt?_store (m : Memory) (i j : Nat) (v : Byte) :
    (Memory.store m i v).byteAt? j = if i = j then some v else m.byteAt? j := by
  induction m with
  | nil => simp [Memory.store, Memory.byteAt?]
  | cons c m ih =>
    obtain ⟨a, b⟩ := c
    unfold Memory.store
    by_cases h1 : i < a
    · simp only [h1, if_true, Memory.byteAt?]
    · by_cases h2 : i = a
      · subst h2
        simp only [h1, if_true, if_false, Memory.byteAt?]
        split_ifs <;> rfl
      · simp only [h1, h2, if_false, Memory.byteAt?, ih]
        split_ifs <;> first | rfl | omega

@[simp] theorem Memory.byteAt?_store_same (m : Memory) (i : Nat) (v : Byte) :
    (Memory.store m i v).byteAt? i = some v := by simp [Memory.byteAt?_store]

theorem Memory.byteAt?_store_other (m : Memory) {i j : Nat} (v : Byte) (h : i ≠ j) :
    (Memory.store m i v).byteAt? j = m.byteAt? j := by simp [Memory.byteAt?_store, h]

/-- Every entry after a store is the stored one or an old one. -/
theorem Memory.mem_store {m : Memory} {i : Nat} {v : Byte} {c : Host.Cell} (h : c ∈ Memory.store m i v) :
    c = (i, v) ∨ c ∈ m := by
  induction m with
  | nil => simpa [Memory.store] using h
  | cons d m ih =>
    obtain ⟨a, b⟩ := d
    unfold Memory.store at h
    split_ifs at h
    · exact (List.mem_cons.mp h)
    · exact (List.mem_cons.mp h).imp_right (List.mem_cons_of_mem _)
    · rcases List.mem_cons.mp h with h | h
      · exact .inr (h ▸ List.mem_cons_self)
      · exact (ih h).imp_right (List.mem_cons_of_mem _)

/-- A store keeps the canonical form. -/
theorem Memory.store_wf {m : Memory} (i : Nat) (v : Byte) (h : m.wf) : (Memory.store m i v).wf := by
  induction m with
  | nil => simp [Memory.store, Memory.wf]
  | cons d m ih =>
    obtain ⟨a, b⟩ := d
    have hm : Memory.wf m := (List.pairwise_cons.mp h).2
    have ha : ∀ c ∈ m, a < c.1 := (List.pairwise_cons.mp h).1
    unfold Memory.store
    split_ifs with h1 h2
    · refine List.pairwise_cons.mpr ⟨fun c hc => ?_, h⟩
      rcases List.mem_cons.mp hc with rfl | hc
      · exact h1
      · exact Nat.lt_trans h1 (ha c hc)
    · subst h2; exact List.pairwise_cons.mpr ⟨ha, hm⟩
    · refine List.pairwise_cons.mpr ⟨fun c hc => ?_, ih hm⟩
      rcases Memory.mem_store hc with rfl | hc
      · simp; omega
      · exact ha c hc

/-- A store inside the buffer keeps every entry inside it. -/
theorem Memory.store_within {m : Memory} {i n : Nat} (v : Byte) (hi : i < n) (h : m.within n) :
    (Memory.store m i v).within n := by
  intro c hc
  rcases Memory.mem_store hc with rfl | hc
  · exact hi
  · exact h c hc

/-- Which bytes exist (20_memory.md R60). -/
theorem memRead_isSome (sp : Space) (i : Nat) (s : State) : (memRead sp i s).isSome = decide (i < bound s.params sp) := by
  unfold memRead
  cases sp <;> split_ifs with h
  all_goals first | exact (decide_eq_true h).symm | exact (decide_eq_false h).symm | exact absurd h (Nat.not_lt_zero i)

@[simp] theorem bound_tx (p : Params) : bound p .tx = p.capacity.toNat := rfl
@[simp] theorem bound_rx (p : Params) : bound p .rx = p.capacity.toNat := rfl
@[simp] theorem bound_reg (p : Params) : bound p .reg = 1 := rfl
@[simp] theorem bound_reserved (p : Params) : bound p .reserved = 0 := rfl

theorem memRead_tx {i : Nat} {s : State} (h : i < s.params.capacity.toNat) : memRead .tx i s = some (txByte s i) :=
  if_pos h

theorem memRead_rx {i : Nat} {s : State} (h : i < s.params.capacity.toNat) : memRead .rx i s = some (rxByte s i) :=
  if_pos h

@[simp] theorem memRead_reg (s : State) : memRead .reg 0 s = some s.regScalar := rfl

/-- What a write of TX answers when it answers. -/
theorem memWrite_tx_some {i : Nat} {b : Byte} {s t : State} (h : memWrite .tx i b s = some t) :
    i < s.params.capacity.toNat ∧ t = { s with txBuf := s.txBuf.store i b } := by
  unfold memWrite at h
  split_ifs at h with hi
  exact ⟨by simpa [bound] using hi, by simpa using h.symm⟩

/-- What a write of RX answers when it answers. -/
theorem memWrite_rx_some {i : Nat} {b : Byte} {s t : State} (h : memWrite .rx i b s = some t) :
    i < s.params.capacity.toNat ∧ t = { s with rxBuf := s.rxBuf.store i b } := by
  unfold memWrite at h
  split_ifs at h with hi
  exact ⟨by simpa [bound] using hi, by simpa using h.symm⟩

/-- A read after a write of TX. -/
theorem memRead_after_tx_store (sp : Space) (i j : Nat) (b : Byte) (s : State) (hj : j < s.params.capacity.toNat) :
    memRead sp i { s with txBuf := s.txBuf.store j b } =
      if sp = .tx ∧ i = j then some b else memRead sp i s := by
  unfold memRead
  cases sp <;> simp [bound, txByte, rxByte, Memory.byteAt?_store]
  by_cases h : i = j
  · subst h; simp [hj]
  · simp [h, Ne.symm h]
    rfl

/-- A read after a write of RX. -/
theorem memRead_after_rx_store (sp : Space) (i j : Nat) (b : Byte) (s : State) (hj : j < s.params.capacity.toNat) :
    memRead sp i { s with rxBuf := s.rxBuf.store j b } =
      if sp = .rx ∧ i = j then some b else memRead sp i s := by
  unfold memRead
  cases sp <;> simp [bound, txByte, rxByte, Memory.byteAt?_store]
  by_cases h : i = j
  · subst h; simp [hj]
  · simp [h, Ne.symm h]
    rfl

end Sys2Proof.Machine
end

