-- ==== Sys2Proof/Laws/State.lean ====
section
/-! SUPPORT. What each named update leaves in each field of State, so that no proof unfolds a record update. -/

namespace Sys2Proof.Machine

open Sys2Proof

/-! `accept` -/

@[simp] theorem accept_params (s : State) : (accept s).params = s.params := rfl
@[simp] theorem accept_txBufIdx (s : State) : (accept s).txBufIdx = s.txBufIdx := rfl
@[simp] theorem accept_txBufOverflow (s : State) : (accept s).txBufOverflow = s.txBufOverflow := rfl
@[simp] theorem accept_rxBufIdx (s : State) : (accept s).rxBufIdx = s.rxBufIdx := rfl
@[simp] theorem accept_rxBufLen (s : State) : (accept s).rxBufLen = s.rxBufLen := rfl
@[simp] theorem accept_descCount (s : State) : (accept s).descCount = s.descCount := rfl
@[simp] theorem accept_desc0 (s : State) : (accept s).desc0 = s.desc0 := rfl
@[simp] theorem accept_desc1 (s : State) : (accept s).desc1 = s.desc1 := rfl
@[simp] theorem accept_regScalar (s : State) : (accept s).regScalar = s.regScalar := rfl
@[simp] theorem accept_selfAddress (s : State) : (accept s).selfAddress = s.selfAddress := rfl
@[simp] theorem accept_fault (s : State) : (accept s).fault = s.fault := rfl
@[simp] theorem accept_busy (s : State) : (accept s).busy = true := rfl
@[simp] theorem accept_txBuf (s : State) : (accept s).txBuf = s.txBuf := rfl
@[simp] theorem accept_rxBuf (s : State) : (accept s).rxBuf = s.rxBuf := rfl
@[simp] theorem accept_resp (s : State) : (accept s).resp = none := rfl
@[simp] theorem accept_engGo (s : State) : (accept s).engGo = none := rfl
@[simp] theorem accept_engReadData (s : State) : (accept s).engReadData = [] := rfl
@[simp] theorem accept_hostInputs (s : State) : (accept s).hostInputs = s.hostInputs := rfl
@[simp] theorem accept_engineAnswers (s : State) : (accept s).engineAnswers = s.engineAnswers := rfl
@[simp] theorem accept_ramEpoch (s : State) : (accept s).ramEpoch = s.ramEpoch := rfl
@[simp] theorem accept_freeDraws (s : State) : (accept s).freeDraws = s.freeDraws := rfl

/-! `complete` -/

@[simp] theorem complete_params (r : RespWord) (s : State) : (complete r s).params = s.params := rfl
@[simp] theorem complete_txBufIdx (r : RespWord) (s : State) : (complete r s).txBufIdx = s.txBufIdx := rfl
@[simp] theorem complete_txBufOverflow (r : RespWord) (s : State) : (complete r s).txBufOverflow = s.txBufOverflow := rfl
@[simp] theorem complete_rxBufIdx (r : RespWord) (s : State) : (complete r s).rxBufIdx = s.rxBufIdx := rfl
@[simp] theorem complete_rxBufLen (r : RespWord) (s : State) : (complete r s).rxBufLen = s.rxBufLen := rfl
@[simp] theorem complete_descCount (r : RespWord) (s : State) : (complete r s).descCount = s.descCount := rfl
@[simp] theorem complete_desc0 (r : RespWord) (s : State) : (complete r s).desc0 = s.desc0 := rfl
@[simp] theorem complete_desc1 (r : RespWord) (s : State) : (complete r s).desc1 = s.desc1 := rfl
@[simp] theorem complete_regScalar (r : RespWord) (s : State) : (complete r s).regScalar = s.regScalar := rfl
@[simp] theorem complete_selfAddress (r : RespWord) (s : State) : (complete r s).selfAddress = s.selfAddress := rfl
@[simp] theorem complete_fault (r : RespWord) (s : State) : (complete r s).fault = s.fault := rfl
@[simp] theorem complete_busy (r : RespWord) (s : State) : (complete r s).busy = false := rfl
@[simp] theorem complete_txBuf (r : RespWord) (s : State) : (complete r s).txBuf = s.txBuf := rfl
@[simp] theorem complete_rxBuf (r : RespWord) (s : State) : (complete r s).rxBuf = s.rxBuf := rfl
@[simp] theorem complete_resp (r : RespWord) (s : State) : (complete r s).resp = some r := rfl
@[simp] theorem complete_engGo (r : RespWord) (s : State) : (complete r s).engGo = s.engGo := rfl
@[simp] theorem complete_engReadData (r : RespWord) (s : State) : (complete r s).engReadData = s.engReadData := rfl
@[simp] theorem complete_hostInputs (r : RespWord) (s : State) : (complete r s).hostInputs = s.hostInputs := rfl
@[simp] theorem complete_engineAnswers (r : RespWord) (s : State) : (complete r s).engineAnswers = s.engineAnswers := rfl
@[simp] theorem complete_ramEpoch (r : RespWord) (s : State) : (complete r s).ramEpoch = s.ramEpoch := rfl
@[simp] theorem complete_freeDraws (r : RespWord) (s : State) : (complete r s).freeDraws = s.freeDraws := rfl

/-! `raiseFault` -/

@[simp] theorem raiseFault_params (c : Cause) (s : State) : (raiseFault c s).params = s.params := rfl
@[simp] theorem raiseFault_txBufIdx (c : Cause) (s : State) : (raiseFault c s).txBufIdx = s.txBufIdx := rfl
@[simp] theorem raiseFault_txBufOverflow (c : Cause) (s : State) : (raiseFault c s).txBufOverflow = s.txBufOverflow := rfl
@[simp] theorem raiseFault_rxBufIdx (c : Cause) (s : State) : (raiseFault c s).rxBufIdx = s.rxBufIdx := rfl
@[simp] theorem raiseFault_rxBufLen (c : Cause) (s : State) : (raiseFault c s).rxBufLen = s.rxBufLen := rfl
@[simp] theorem raiseFault_descCount (c : Cause) (s : State) : (raiseFault c s).descCount = s.descCount := rfl
@[simp] theorem raiseFault_desc0 (c : Cause) (s : State) : (raiseFault c s).desc0 = s.desc0 := rfl
@[simp] theorem raiseFault_desc1 (c : Cause) (s : State) : (raiseFault c s).desc1 = s.desc1 := rfl
@[simp] theorem raiseFault_regScalar (c : Cause) (s : State) : (raiseFault c s).regScalar = s.regScalar := rfl
@[simp] theorem raiseFault_selfAddress (c : Cause) (s : State) : (raiseFault c s).selfAddress = s.selfAddress := rfl
@[simp] theorem raiseFault_fault (c : Cause) (s : State) : (raiseFault c s).fault = s.fault ||| c.bit := rfl
@[simp] theorem raiseFault_busy (c : Cause) (s : State) : (raiseFault c s).busy = false := rfl
@[simp] theorem raiseFault_txBuf (c : Cause) (s : State) : (raiseFault c s).txBuf = s.txBuf := rfl
@[simp] theorem raiseFault_rxBuf (c : Cause) (s : State) : (raiseFault c s).rxBuf = s.rxBuf := rfl
@[simp] theorem raiseFault_resp (c : Cause) (s : State) : (raiseFault c s).resp = some (respWord false true false 0) := rfl
@[simp] theorem raiseFault_engGo (c : Cause) (s : State) : (raiseFault c s).engGo = s.engGo := rfl
@[simp] theorem raiseFault_engReadData (c : Cause) (s : State) : (raiseFault c s).engReadData = s.engReadData := rfl
@[simp] theorem raiseFault_hostInputs (c : Cause) (s : State) : (raiseFault c s).hostInputs = s.hostInputs := rfl
@[simp] theorem raiseFault_engineAnswers (c : Cause) (s : State) : (raiseFault c s).engineAnswers = s.engineAnswers := rfl
@[simp] theorem raiseFault_ramEpoch (c : Cause) (s : State) : (raiseFault c s).ramEpoch = s.ramEpoch := rfl
@[simp] theorem raiseFault_freeDraws (c : Cause) (s : State) : (raiseFault c s).freeDraws = s.freeDraws := rfl

/-! `emptyTx` -/

@[simp] theorem emptyTx_params (s : State) : (emptyTx s).params = s.params := rfl
@[simp] theorem emptyTx_txBufIdx (s : State) : (emptyTx s).txBufIdx = 0 := rfl
@[simp] theorem emptyTx_txBufOverflow (s : State) : (emptyTx s).txBufOverflow = false := rfl
@[simp] theorem emptyTx_rxBufIdx (s : State) : (emptyTx s).rxBufIdx = s.rxBufIdx := rfl
@[simp] theorem emptyTx_rxBufLen (s : State) : (emptyTx s).rxBufLen = s.rxBufLen := rfl
@[simp] theorem emptyTx_descCount (s : State) : (emptyTx s).descCount = s.descCount := rfl
@[simp] theorem emptyTx_desc0 (s : State) : (emptyTx s).desc0 = s.desc0 := rfl
@[simp] theorem emptyTx_desc1 (s : State) : (emptyTx s).desc1 = s.desc1 := rfl
@[simp] theorem emptyTx_regScalar (s : State) : (emptyTx s).regScalar = s.regScalar := rfl
@[simp] theorem emptyTx_selfAddress (s : State) : (emptyTx s).selfAddress = s.selfAddress := rfl
@[simp] theorem emptyTx_fault (s : State) : (emptyTx s).fault = s.fault := rfl
@[simp] theorem emptyTx_busy (s : State) : (emptyTx s).busy = s.busy := rfl
@[simp] theorem emptyTx_txBuf (s : State) : (emptyTx s).txBuf = s.txBuf := rfl
@[simp] theorem emptyTx_rxBuf (s : State) : (emptyTx s).rxBuf = s.rxBuf := rfl
@[simp] theorem emptyTx_resp (s : State) : (emptyTx s).resp = s.resp := rfl
@[simp] theorem emptyTx_engGo (s : State) : (emptyTx s).engGo = s.engGo := rfl
@[simp] theorem emptyTx_engReadData (s : State) : (emptyTx s).engReadData = s.engReadData := rfl
@[simp] theorem emptyTx_hostInputs (s : State) : (emptyTx s).hostInputs = s.hostInputs := rfl
@[simp] theorem emptyTx_engineAnswers (s : State) : (emptyTx s).engineAnswers = s.engineAnswers := rfl
@[simp] theorem emptyTx_ramEpoch (s : State) : (emptyTx s).ramEpoch = s.ramEpoch := rfl
@[simp] theorem emptyTx_freeDraws (s : State) : (emptyTx s).freeDraws = s.freeDraws := rfl

/-! `emptyRx` -/

@[simp] theorem emptyRx_params (s : State) : (emptyRx s).params = s.params := rfl
@[simp] theorem emptyRx_txBufIdx (s : State) : (emptyRx s).txBufIdx = s.txBufIdx := rfl
@[simp] theorem emptyRx_txBufOverflow (s : State) : (emptyRx s).txBufOverflow = s.txBufOverflow := rfl
@[simp] theorem emptyRx_rxBufIdx (s : State) : (emptyRx s).rxBufIdx = 0 := rfl
@[simp] theorem emptyRx_rxBufLen (s : State) : (emptyRx s).rxBufLen = 0 := rfl
@[simp] theorem emptyRx_descCount (s : State) : (emptyRx s).descCount = s.descCount := rfl
@[simp] theorem emptyRx_desc0 (s : State) : (emptyRx s).desc0 = s.desc0 := rfl
@[simp] theorem emptyRx_desc1 (s : State) : (emptyRx s).desc1 = s.desc1 := rfl
@[simp] theorem emptyRx_regScalar (s : State) : (emptyRx s).regScalar = s.regScalar := rfl
@[simp] theorem emptyRx_selfAddress (s : State) : (emptyRx s).selfAddress = s.selfAddress := rfl
@[simp] theorem emptyRx_fault (s : State) : (emptyRx s).fault = s.fault := rfl
@[simp] theorem emptyRx_busy (s : State) : (emptyRx s).busy = s.busy := rfl
@[simp] theorem emptyRx_txBuf (s : State) : (emptyRx s).txBuf = s.txBuf := rfl
@[simp] theorem emptyRx_rxBuf (s : State) : (emptyRx s).rxBuf = s.rxBuf := rfl
@[simp] theorem emptyRx_resp (s : State) : (emptyRx s).resp = s.resp := rfl
@[simp] theorem emptyRx_engGo (s : State) : (emptyRx s).engGo = s.engGo := rfl
@[simp] theorem emptyRx_engReadData (s : State) : (emptyRx s).engReadData = s.engReadData := rfl
@[simp] theorem emptyRx_hostInputs (s : State) : (emptyRx s).hostInputs = s.hostInputs := rfl
@[simp] theorem emptyRx_engineAnswers (s : State) : (emptyRx s).engineAnswers = s.engineAnswers := rfl
@[simp] theorem emptyRx_ramEpoch (s : State) : (emptyRx s).ramEpoch = s.ramEpoch := rfl
@[simp] theorem emptyRx_freeDraws (s : State) : (emptyRx s).freeDraws = s.freeDraws := rfl

/-! `startEngine` -/

@[simp] theorem startEngine_params (b : Bool) (s : State) : (startEngine b s).params = s.params := rfl
@[simp] theorem startEngine_txBufIdx (b : Bool) (s : State) : (startEngine b s).txBufIdx = s.txBufIdx := rfl
@[simp] theorem startEngine_txBufOverflow (b : Bool) (s : State) : (startEngine b s).txBufOverflow = s.txBufOverflow := rfl
@[simp] theorem startEngine_rxBufIdx (b : Bool) (s : State) : (startEngine b s).rxBufIdx = s.rxBufIdx := rfl
@[simp] theorem startEngine_rxBufLen (b : Bool) (s : State) : (startEngine b s).rxBufLen = s.rxBufLen := rfl
@[simp] theorem startEngine_descCount (b : Bool) (s : State) : (startEngine b s).descCount = s.descCount := rfl
@[simp] theorem startEngine_desc0 (b : Bool) (s : State) : (startEngine b s).desc0 = s.desc0 := rfl
@[simp] theorem startEngine_desc1 (b : Bool) (s : State) : (startEngine b s).desc1 = s.desc1 := rfl
@[simp] theorem startEngine_regScalar (b : Bool) (s : State) : (startEngine b s).regScalar = s.regScalar := rfl
@[simp] theorem startEngine_selfAddress (b : Bool) (s : State) : (startEngine b s).selfAddress = s.selfAddress := rfl
@[simp] theorem startEngine_fault (b : Bool) (s : State) : (startEngine b s).fault = s.fault := rfl
@[simp] theorem startEngine_busy (b : Bool) (s : State) : (startEngine b s).busy = s.busy := rfl
@[simp] theorem startEngine_txBuf (b : Bool) (s : State) : (startEngine b s).txBuf = s.txBuf := rfl
@[simp] theorem startEngine_rxBuf (b : Bool) (s : State) : (startEngine b s).rxBuf = s.rxBuf := rfl
@[simp] theorem startEngine_resp (b : Bool) (s : State) : (startEngine b s).resp = s.resp := rfl
@[simp] theorem startEngine_engGo (b : Bool) (s : State) : (startEngine b s).engGo = some { sendStop := b, count := s.descCount, descs := (activeDescs s).map (engineDesc s) } := rfl
@[simp] theorem startEngine_engReadData (b : Bool) (s : State) : (startEngine b s).engReadData = s.engReadData := rfl
@[simp] theorem startEngine_hostInputs (b : Bool) (s : State) : (startEngine b s).hostInputs = s.hostInputs := rfl
@[simp] theorem startEngine_engineAnswers (b : Bool) (s : State) : (startEngine b s).engineAnswers = s.engineAnswers := rfl
@[simp] theorem startEngine_ramEpoch (b : Bool) (s : State) : (startEngine b s).ramEpoch = s.ramEpoch := rfl
@[simp] theorem startEngine_freeDraws (b : Bool) (s : State) : (startEngine b s).freeDraws = s.freeDraws := rfl

/-! `stageReq` -/

@[simp] theorem stageReq_params (a : DevAddr) (n : Byte) (s : State) : (stageReq a n s).params = s.params := rfl
@[simp] theorem stageReq_txBufIdx (a : DevAddr) (n : Byte) (s : State) : (stageReq a n s).txBufIdx = s.txBufIdx := rfl
@[simp] theorem stageReq_txBufOverflow (a : DevAddr) (n : Byte) (s : State) : (stageReq a n s).txBufOverflow = s.txBufOverflow := rfl
@[simp] theorem stageReq_rxBufIdx (a : DevAddr) (n : Byte) (s : State) : (stageReq a n s).rxBufIdx = s.rxBufIdx := rfl
@[simp] theorem stageReq_rxBufLen (a : DevAddr) (n : Byte) (s : State) : (stageReq a n s).rxBufLen = s.rxBufLen := rfl
@[simp] theorem stageReq_descCount (a : DevAddr) (n : Byte) (s : State) : (stageReq a n s).descCount = s.descCount := rfl
@[simp] theorem stageReq_desc0 (a : DevAddr) (n : Byte) (s : State) : (stageReq a n s).desc0 = requestDesc s.desc0 a n s := rfl
@[simp] theorem stageReq_desc1 (a : DevAddr) (n : Byte) (s : State) : (stageReq a n s).desc1 = s.desc1 := rfl
@[simp] theorem stageReq_regScalar (a : DevAddr) (n : Byte) (s : State) : (stageReq a n s).regScalar = s.regScalar := rfl
@[simp] theorem stageReq_selfAddress (a : DevAddr) (n : Byte) (s : State) : (stageReq a n s).selfAddress = s.selfAddress := rfl
@[simp] theorem stageReq_fault (a : DevAddr) (n : Byte) (s : State) : (stageReq a n s).fault = s.fault := rfl
@[simp] theorem stageReq_busy (a : DevAddr) (n : Byte) (s : State) : (stageReq a n s).busy = s.busy := rfl
@[simp] theorem stageReq_txBuf (a : DevAddr) (n : Byte) (s : State) : (stageReq a n s).txBuf = s.txBuf := rfl
@[simp] theorem stageReq_rxBuf (a : DevAddr) (n : Byte) (s : State) : (stageReq a n s).rxBuf = s.rxBuf := rfl
@[simp] theorem stageReq_resp (a : DevAddr) (n : Byte) (s : State) : (stageReq a n s).resp = s.resp := rfl
@[simp] theorem stageReq_engGo (a : DevAddr) (n : Byte) (s : State) : (stageReq a n s).engGo = s.engGo := rfl
@[simp] theorem stageReq_engReadData (a : DevAddr) (n : Byte) (s : State) : (stageReq a n s).engReadData = s.engReadData := rfl
@[simp] theorem stageReq_hostInputs (a : DevAddr) (n : Byte) (s : State) : (stageReq a n s).hostInputs = s.hostInputs := rfl
@[simp] theorem stageReq_engineAnswers (a : DevAddr) (n : Byte) (s : State) : (stageReq a n s).engineAnswers = s.engineAnswers := rfl
@[simp] theorem stageReq_ramEpoch (a : DevAddr) (n : Byte) (s : State) : (stageReq a n s).ramEpoch = s.ramEpoch := rfl
@[simp] theorem stageReq_freeDraws (a : DevAddr) (n : Byte) (s : State) : (stageReq a n s).freeDraws = s.freeDraws := rfl

/-! `stageReqReg` -/

@[simp] theorem stageReqReg_params (a : DevAddr) (r n : Byte) (s : State) : (stageReqReg a r n s).params = s.params := rfl
@[simp] theorem stageReqReg_txBufIdx (a : DevAddr) (r n : Byte) (s : State) : (stageReqReg a r n s).txBufIdx = s.txBufIdx := rfl
@[simp] theorem stageReqReg_txBufOverflow (a : DevAddr) (r n : Byte) (s : State) : (stageReqReg a r n s).txBufOverflow = s.txBufOverflow := rfl
@[simp] theorem stageReqReg_rxBufIdx (a : DevAddr) (r n : Byte) (s : State) : (stageReqReg a r n s).rxBufIdx = s.rxBufIdx := rfl
@[simp] theorem stageReqReg_rxBufLen (a : DevAddr) (r n : Byte) (s : State) : (stageReqReg a r n s).rxBufLen = s.rxBufLen := rfl
@[simp] theorem stageReqReg_descCount (a : DevAddr) (r n : Byte) (s : State) : (stageReqReg a r n s).descCount = .two := rfl
@[simp] theorem stageReqReg_desc0 (a : DevAddr) (r n : Byte) (s : State) : (stageReqReg a r n s).desc0 = registerDesc a s := rfl
@[simp] theorem stageReqReg_desc1 (a : DevAddr) (r n : Byte) (s : State) : (stageReqReg a r n s).desc1 = requestDesc s.desc1 a n s := rfl
@[simp] theorem stageReqReg_regScalar (a : DevAddr) (r n : Byte) (s : State) : (stageReqReg a r n s).regScalar = r := rfl
@[simp] theorem stageReqReg_selfAddress (a : DevAddr) (r n : Byte) (s : State) : (stageReqReg a r n s).selfAddress = s.selfAddress := rfl
@[simp] theorem stageReqReg_fault (a : DevAddr) (r n : Byte) (s : State) : (stageReqReg a r n s).fault = s.fault := rfl
@[simp] theorem stageReqReg_busy (a : DevAddr) (r n : Byte) (s : State) : (stageReqReg a r n s).busy = s.busy := rfl
@[simp] theorem stageReqReg_txBuf (a : DevAddr) (r n : Byte) (s : State) : (stageReqReg a r n s).txBuf = s.txBuf := rfl
@[simp] theorem stageReqReg_rxBuf (a : DevAddr) (r n : Byte) (s : State) : (stageReqReg a r n s).rxBuf = s.rxBuf := rfl
@[simp] theorem stageReqReg_resp (a : DevAddr) (r n : Byte) (s : State) : (stageReqReg a r n s).resp = s.resp := rfl
@[simp] theorem stageReqReg_engGo (a : DevAddr) (r n : Byte) (s : State) : (stageReqReg a r n s).engGo = s.engGo := rfl
@[simp] theorem stageReqReg_engReadData (a : DevAddr) (r n : Byte) (s : State) : (stageReqReg a r n s).engReadData = s.engReadData := rfl
@[simp] theorem stageReqReg_hostInputs (a : DevAddr) (r n : Byte) (s : State) : (stageReqReg a r n s).hostInputs = s.hostInputs := rfl
@[simp] theorem stageReqReg_engineAnswers (a : DevAddr) (r n : Byte) (s : State) : (stageReqReg a r n s).engineAnswers = s.engineAnswers := rfl
@[simp] theorem stageReqReg_ramEpoch (a : DevAddr) (r n : Byte) (s : State) : (stageReqReg a r n s).ramEpoch = s.ramEpoch := rfl
@[simp] theorem stageReqReg_freeDraws (a : DevAddr) (r n : Byte) (s : State) : (stageReqReg a r n s).freeDraws = s.freeDraws := rfl

/-! `closeReq` -/

@[simp] theorem closeReq_params (s : State) : (closeReq s).params = s.params := rfl
@[simp] theorem closeReq_txBufIdx (s : State) : (closeReq s).txBufIdx = s.txBufIdx := rfl
@[simp] theorem closeReq_txBufOverflow (s : State) : (closeReq s).txBufOverflow = s.txBufOverflow := rfl
@[simp] theorem closeReq_rxBufIdx (s : State) : (closeReq s).rxBufIdx = s.rxBufIdx := rfl
@[simp] theorem closeReq_rxBufLen (s : State) : (closeReq s).rxBufLen = s.rxBufLen := rfl
@[simp] theorem closeReq_descCount (s : State) : (closeReq s).descCount = s.descCount := rfl
@[simp] theorem closeReq_desc0 (s : State) : (closeReq s).desc0 = { s.desc0 with flags := .write } := rfl
@[simp] theorem closeReq_desc1 (s : State) : (closeReq s).desc1 = s.desc1 := rfl
@[simp] theorem closeReq_regScalar (s : State) : (closeReq s).regScalar = s.regScalar := rfl
@[simp] theorem closeReq_selfAddress (s : State) : (closeReq s).selfAddress = s.selfAddress := rfl
@[simp] theorem closeReq_fault (s : State) : (closeReq s).fault = s.fault := rfl
@[simp] theorem closeReq_busy (s : State) : (closeReq s).busy = s.busy := rfl
@[simp] theorem closeReq_txBuf (s : State) : (closeReq s).txBuf = s.txBuf := rfl
@[simp] theorem closeReq_rxBuf (s : State) : (closeReq s).rxBuf = s.rxBuf := rfl
@[simp] theorem closeReq_resp (s : State) : (closeReq s).resp = s.resp := rfl
@[simp] theorem closeReq_engGo (s : State) : (closeReq s).engGo = s.engGo := rfl
@[simp] theorem closeReq_engReadData (s : State) : (closeReq s).engReadData = s.engReadData := rfl
@[simp] theorem closeReq_hostInputs (s : State) : (closeReq s).hostInputs = s.hostInputs := rfl
@[simp] theorem closeReq_engineAnswers (s : State) : (closeReq s).engineAnswers = s.engineAnswers := rfl
@[simp] theorem closeReq_ramEpoch (s : State) : (closeReq s).ramEpoch = s.ramEpoch := rfl
@[simp] theorem closeReq_freeDraws (s : State) : (closeReq s).freeDraws = s.freeDraws := rfl

/-! `closeReqReg` -/

@[simp] theorem closeReqReg_params (s : State) : (closeReqReg s).params = s.params := rfl
@[simp] theorem closeReqReg_txBufIdx (s : State) : (closeReqReg s).txBufIdx = s.txBufIdx := rfl
@[simp] theorem closeReqReg_txBufOverflow (s : State) : (closeReqReg s).txBufOverflow = s.txBufOverflow := rfl
@[simp] theorem closeReqReg_rxBufIdx (s : State) : (closeReqReg s).rxBufIdx = s.rxBufIdx := rfl
@[simp] theorem closeReqReg_rxBufLen (s : State) : (closeReqReg s).rxBufLen = s.rxBufLen := rfl
@[simp] theorem closeReqReg_descCount (s : State) : (closeReqReg s).descCount = .one := rfl
@[simp] theorem closeReqReg_desc0 (s : State) : (closeReqReg s).desc0 = s.desc0 := rfl
@[simp] theorem closeReqReg_desc1 (s : State) : (closeReqReg s).desc1 = { s.desc1 with flags := .write } := rfl
@[simp] theorem closeReqReg_regScalar (s : State) : (closeReqReg s).regScalar = s.regScalar := rfl
@[simp] theorem closeReqReg_selfAddress (s : State) : (closeReqReg s).selfAddress = s.selfAddress := rfl
@[simp] theorem closeReqReg_fault (s : State) : (closeReqReg s).fault = s.fault := rfl
@[simp] theorem closeReqReg_busy (s : State) : (closeReqReg s).busy = s.busy := rfl
@[simp] theorem closeReqReg_txBuf (s : State) : (closeReqReg s).txBuf = s.txBuf := rfl
@[simp] theorem closeReqReg_rxBuf (s : State) : (closeReqReg s).rxBuf = s.rxBuf := rfl
@[simp] theorem closeReqReg_resp (s : State) : (closeReqReg s).resp = s.resp := rfl
@[simp] theorem closeReqReg_engGo (s : State) : (closeReqReg s).engGo = s.engGo := rfl
@[simp] theorem closeReqReg_engReadData (s : State) : (closeReqReg s).engReadData = s.engReadData := rfl
@[simp] theorem closeReqReg_hostInputs (s : State) : (closeReqReg s).hostInputs = s.hostInputs := rfl
@[simp] theorem closeReqReg_engineAnswers (s : State) : (closeReqReg s).engineAnswers = s.engineAnswers := rfl
@[simp] theorem closeReqReg_ramEpoch (s : State) : (closeReqReg s).ramEpoch = s.ramEpoch := rfl
@[simp] theorem closeReqReg_freeDraws (s : State) : (closeReqReg s).freeDraws = s.freeDraws := rfl

/-! The responses are completions. -/

@[simp] theorem respond_eq (v : Byte) (dv : Bool) (s : State) :
    respond v dv s = complete (respWord false false dv v) s := rfl

@[simp] theorem respondFault_eq (s : State) : respondFault s = complete (respWord false true false 0) s := rfl

@[simp] theorem respondIllegal_eq (s : State) : respondIllegal s = complete (respWord true false false 0) s := rfl

/-! A completed command's words, as the spec prints them (R99, R100). -/

theorem respWord_illegal : respWord true false false 0#8 = 0x8000#16 := by decide

theorem respWord_value (v : Byte) : respWord false false false v = 0x00#8 ++ v := by
  unfold respWord
  apply BitVec.eq_of_getElem_eq
  intro i hi
  simp

theorem respWord_data (v : Byte) : respWord false false true v = 0x01#8 ++ v := by
  unfold respWord
  apply BitVec.eq_of_getElem_eq
  intro i hi
  simp

theorem respWord_fault : respWord false true false 0#8 = 0x4000#16 := by decide

end Sys2Proof.Machine
end

