-- ==== Sys2Proof/Laws/Ops.lean ====
section
/-! SUPPORT. One lemma for each shared operation, saying once everything it can do: the prologue, the engine's accesses,
the dispatch, the accumulation. -/

namespace Sys2Proof.Machine

open Sys2Proof

/-- A legal command either meets `fault = 0` and runs its body on the accepted state, or gets the fault response. -/
theorem command_cases (body : State → Result) (s : State) :
    (s.fault = 0 ∧ command body s = body (accept s)) ∨
    (s.fault ≠ 0 ∧ command body s = .next (complete 0x4000#16 (accept s))) := by
  by_cases h : s.fault = 0
  · exact .inl ⟨h, by rw [command, if_pos h]⟩
  · exact .inr ⟨h, by rw [command, if_neg h]; rfl⟩

/-- A state is taken and completed: only `busy` and the ports differ. -/
theorem complete_accept (r : RespWord) (s : State) :
    complete r (accept s) = { s with busy := false, resp := some r, engGo := none, engReadData := [] } := rfl

/-! ### The engine's accesses -/

theorem onlyEngineTouched.refl (s : State) : onlyEngineTouched s s := rfl

theorem onlyEngineTouched.trans {s t u : State} (h : onlyEngineTouched s t) (k : onlyEngineTouched t u) :
    onlyEngineTouched s u := by
  unfold onlyEngineTouched at *
  rw [k, h]

/-- The engine's accesses leave the active descriptors as they are. -/
theorem onlyEngineTouched.activeDescs {s t : State} (h : onlyEngineTouched s t) : activeDescs t = activeDescs s := by
  rw [h]; rfl

/-- One access, in full: a read changes only the record of answers; a write stores one byte of RX inside an active READ
view, or changes nothing. -/
theorem serveAccess_cases (a : EngineAccess) (s : State) :
    (∃ bs n, serveAccess a s = { s with engReadData := s.engReadData ++ bs, freeDraws := n }) ∨
    (∃ i b, i < s.params.capacity.toNat ∧ inReadView s i ∧
      serveAccess a s = { s with rxBuf := s.rxBuf.store i b }) := by
  cases a with
  | read k p =>
    left
    simp only [serveAccess, viewRead]
    cases viewRead? k p s with
    | some b => exact ⟨[b], s.freeDraws, rfl⟩
    | none => exact ⟨[Config.unadmittedRead s.freeDraws], s.freeDraws + 1, rfl⟩
  | write k p b =>
    simp only [serveAccess, viewWrite]
    have same : ∃ bs n, s = { s with engReadData := s.engReadData ++ bs, freeDraws := n } := ⟨[], s.freeDraws, by simp⟩
    cases hd : activeDesc? k s with
    | none => exact .inl same
    | some d =>
      by_cases hw : writeAdmitted d p
      · cases hm : memWrite .rx (d.view.offset.toNat + p) b s with
        | none => simpa [hw, hm] using Or.inl same
        | some t =>
          obtain ⟨hi, rfl⟩ := memWrite_rx_some hm
          right
          refine ⟨_, b, hi, ⟨d, List.mem_of_getElem? hd, ?_⟩, by simp [hw, hm]⟩
          simp [writeAdmitted] at hw
          exact ⟨hw.1.1, hw.1.2, by omega, by omega⟩
      · simpa [hw] using Or.inl same

theorem serveAccess_touched (a : EngineAccess) (s : State) : onlyEngineTouched s (serveAccess a s) := by
  obtain ⟨bs, n, h⟩ | ⟨i, b, -, -, h⟩ := serveAccess_cases a s <;> rw [h] <;> rfl

/-- All of a dispatch's accesses touch only RX and the record of answers. -/
theorem serveAccesses_touched (as : List EngineAccess) (s : State) : onlyEngineTouched s (serveAccesses as s) := by
  induction as generalizing s with
  | nil => exact .refl s
  | cons a as ih => exact (serveAccess_touched a s).trans (ih _)

/-- The engine keeps the receive buffer in canonical form and inside its bounds. -/
theorem serveAccesses_rxBuf_wf (as : List EngineAccess) {s : State} (h : s.rxBuf.wf)
    (k : s.rxBuf.within s.params.capacity.toNat) :
    (serveAccesses as s).rxBuf.wf ∧ (serveAccesses as s).rxBuf.within s.params.capacity.toNat := by
  induction as generalizing s with
  | nil => exact ⟨h, k⟩
  | cons a as ih =>
    have hp : (serveAccess a s).params = s.params := by rw [serveAccess_touched a s]
    have step : (serveAccess a s).rxBuf.wf ∧ (serveAccess a s).rxBuf.within s.params.capacity.toNat := by
      obtain ⟨bs, n, e⟩ | ⟨i, b, hi, -, e⟩ := serveAccess_cases a s <;> rw [e]
      · exact ⟨h, k⟩
      · exact ⟨Memory.store_wf i b h, Memory.store_within b hi k⟩
    have := ih (s := serveAccess a s) step.1 (hp ▸ step.2)
    rw [hp] at this
    exact this

/-- A byte of RX outside every active READ view is not touched (20_memory.md R70). -/
theorem serveAccesses_outside (as : List EngineAccess) (s : State) (i : Nat) (h : ¬inReadView s i) :
    (serveAccesses as s).rxBuf.byteAt? i = s.rxBuf.byteAt? i := by
  induction as generalizing s with
  | nil => rfl
  | cons a as ih =>
    have h' : ¬inReadView (serveAccess a s) i := by
      intro hh
      apply h
      unfold inReadView at *
      rwa [(serveAccess_touched a s).activeDescs] at hh
    simp only [serveAccesses]
    rw [ih _ h']
    obtain ⟨bs, n, e⟩ | ⟨j, b, -, hj, e⟩ := serveAccess_cases a s <;> rw [e]
    rw [Memory.byteAt?_store_other]
    rintro rfl
    exact h hj

/-- With no active READ view the receive buffer is not touched at all. -/
theorem serveAccesses_noReadView (as : List EngineAccess) (s : State) (h : ∀ i, ¬inReadView s i) :
    (serveAccesses as s).rxBuf = s.rxBuf := by
  induction as generalizing s with
  | nil => rfl
  | cons a as ih =>
    have h' : ∀ i, ¬inReadView (serveAccess a s) i := by
      intro i hh
      apply h i
      unfold inReadView at *
      rwa [(serveAccess_touched a s).activeDescs] at hh
    simp only [serveAccesses]
    rw [ih _ h']
    obtain ⟨bs, n, e⟩ | ⟨j, b, -, hj, e⟩ := serveAccess_cases a s <;> rw [e]
    exact absurd hj (h j)

/-- What the engine's accesses make of RX depends on the parameters, the active descriptors and RX alone. -/
theorem serveAccesses_rxBuf_congr (as : List EngineAccess) {s t : State} (hp : t.params = s.params)
    (hd : activeDescs t = activeDescs s) (hr : t.rxBuf = s.rxBuf) :
    (serveAccesses as t).rxBuf = (serveAccesses as s).rxBuf := by
  induction as generalizing s t with
  | nil => exact hr
  | cons a as ih =>
    have hs := serveAccess_touched a s
    have ht := serveAccess_touched a t
    refine ih (by rw [hs, ht]; exact hp) (by rw [hs.activeDescs, ht.activeDescs]; exact hd) ?_
    cases a with
    | read k p =>
      simp only [serveAccess, viewRead]
      cases viewRead? k p t <;> cases viewRead? k p s <;> exact hr
    | write k p b =>
      simp only [serveAccess, viewWrite, activeDesc?, hd]
      cases (activeDescs s)[k]? with
      | none => exact hr
      | some d =>
        by_cases hw : writeAdmitted d p
        · by_cases hi : d.view.offset.toNat + p < bound s.params .rx
          · simp only [hw, if_true, memWrite, hp, hi, Option.getD_some, hr]
          · simp only [hw, if_true, memWrite, hp, hi, if_false, Option.getD_none, hr]
        · simpa [hw] using hr

/-- The data of a view inside its space: as many bytes as its length, each the byte of the space (R65, R183). -/
theorem viewData_spec (d : Descriptor) (s : State)
    (hb : d.view.offset.toNat + d.length.toNat ≤ bound s.params d.view.space) :
    (viewData d s).length = d.length.toNat ∧
    ∀ p, p < d.length.toNat → (viewData d s)[p]? = memRead d.view.space (d.view.offset.toNat + p) s := by
  have key : ∀ p, p < d.length.toNat → memRead d.view.space (d.view.offset.toNat + p) s =
      some ((memRead d.view.space (d.view.offset.toNat + p) s).getD 0) := by
    intro p hp
    have := memRead_isSome d.view.space (d.view.offset.toNat + p) s
    rw [decide_eq_true (by omega)] at this
    obtain ⟨v, hv⟩ := Option.isSome_iff_exists.mp this
    simp [hv]
  have e : viewData d s = (List.range d.length.toNat).map
      (fun p => (memRead d.view.space (d.view.offset.toNat + p) s).getD 0) := by
    unfold viewData
    rw [← List.filterMap_eq_map]
    apply List.filterMap_congr
    intro p hp
    rw [List.mem_range] at hp
    rw [key p hp]
    rfl
  refine ⟨by simp [e], fun p hp => ?_⟩
  rw [key p hp, e]
  simp [hp]

/-- Equal bytes of TX in states of one instance between two resets. -/
theorem memRead_tx_congr {s t : State} (hp : t.params = s.params) (he : t.ramEpoch = s.ramEpoch) (i : Nat)
    (hb : t.txBuf.byteAt? i = s.txBuf.byteAt? i) : memRead .tx i t = memRead .tx i s := by
  simp only [memRead, txByte, hp, he, hb]

/-- Equal bytes of RX in states of one instance between two resets. -/
theorem memRead_rx_congr {s t : State} (hp : t.params = s.params) (he : t.ramEpoch = s.ramEpoch) (i : Nat)
    (hb : t.rxBuf.byteAt? i = s.rxBuf.byteAt? i) : memRead .rx i t = memRead .rx i s := by
  simp only [memRead, rxByte, hp, he, hb]

/-! ### The dispatch -/

/-- The descriptors' counts after the latch; nothing else changes. -/
theorem latchXferred_eq (d : EngineDone) (s : State) :
    latchXferred d s =
      { s with
        desc0 := { s.desc0 with xferred := d.xferred0 }
        desc1 := { s.desc1 with xferred := if s.descCount = .two then d.xferred1 else s.desc1.xferred } } := by
  unfold latchXferred
  cases h : s.descCount <;> simp

/-- Everything a dispatch can do: VIEW and no engine; a hang; a status; or XFER. -/
theorem dispatch_cases (b : Bool) (s : State) :
    ((activeDescs s).all (viewOk s.params) = false ∧ dispatch b s = .raised (raiseFault .view s)) ∨
    ((activeDescs s).all (viewOk s.params) = true ∧
      ((s.engineAnswers = [] ∧ dispatch b s = .hung (startEngine b s)) ∨
      (∃ a rest u, s.engineAnswers = a :: rest ∧
        u = serveAccesses a.accesses { startEngine b s with engineAnswers := rest } ∧
        ((a.done = none ∧ dispatch b s = .hung u) ∨
        (∃ d, a.done = some d ∧ (activeDescs (latchXferred d u)).all countOk = true ∧
          dispatch b s = .returned d.status (latchXferred d u)) ∨
        (∃ d, a.done = some d ∧ (activeDescs (latchXferred d u)).all countOk = false ∧
          dispatch b s = .raised (raiseFault .xfer (latchXferred d u))))))) := by
  unfold dispatch
  cases hv : (activeDescs s).all (viewOk s.params) with
  | false => exact .inl ⟨rfl, by simp⟩
  | true =>
    refine .inr ⟨rfl, ?_⟩
    cases ha : s.engineAnswers with
    | nil => exact .inl ⟨rfl, by simp [runEngine, ha]⟩
    | cons a rest =>
      refine .inr ⟨a, rest, _, rfl, rfl, ?_⟩
      cases hd : a.done with
      | none => exact .inl ⟨rfl, by simp [runEngine, ha, finishDispatch, hd]⟩
      | some d =>
        right
        cases hc : (activeDescs (latchXferred d
            (serveAccesses a.accesses { startEngine b s with engineAnswers := rest }))).all countOk with
        | true => exact .inl ⟨d, rfl, hc, by simp only [runEngine, startEngine_engineAnswers, ha, finishDispatch, hd, if_true, hc]⟩
        | false =>
          exact .inr ⟨d, rfl, hc, by
            simp only [runEngine, startEngine_engineAnswers, ha, finishDispatch, hd, if_true, hc, Bool.false_eq_true, if_false]⟩

/-- The descriptors the contract check looks at, computed before the engine's accesses. -/
theorem activeDescs_latch_serve (d : EngineDone) (as : List EngineAccess) (b : Bool) (rest : List EngineAnswer) (s : State) :
    activeDescs (latchXferred d (serveAccesses as { startEngine b s with engineAnswers := rest })) =
      activeDescs (latchXferred d s) := by
  rw [serveAccesses_touched as { startEngine b s with engineAnswers := rest }, latchXferred_eq, latchXferred_eq]
  rfl

/-- When a dispatch returns, and what it returns (R180). -/
theorem dispatch_returns (b : Bool) {s : State} {a : EngineAnswer} {rest : List EngineAnswer} {d : EngineDone}
    (hv : (activeDescs s).all (viewOk s.params) = true) (ha : s.engineAnswers = a :: rest) (hd : a.done = some d)
    (hc : (activeDescs (latchXferred d s)).all countOk = true) :
    dispatch b s = .returned d.status
      (latchXferred d (serveAccesses a.accesses { startEngine b s with engineAnswers := rest })) := by
  rw [← activeDescs_latch_serve d a.accesses b rest s] at hc
  simp only [dispatch, hv, if_true, runEngine, startEngine_engineAnswers, ha, finishDispatch, hd, hc]

/-- When a dispatch raises XFER, and in which state (R187). -/
theorem dispatch_raises_xfer (b : Bool) {s : State} {a : EngineAnswer} {rest : List EngineAnswer} {d : EngineDone}
    (hv : (activeDescs s).all (viewOk s.params) = true) (ha : s.engineAnswers = a :: rest) (hd : a.done = some d)
    (hc : (activeDescs (latchXferred d s)).all countOk = false) :
    dispatch b s = .raised (raiseFault .xfer
      (latchXferred d (serveAccesses a.accesses { startEngine b s with engineAnswers := rest }))) := by
  rw [← activeDescs_latch_serve d a.accesses b rest s] at hc
  simp only [dispatch, hv, if_true, runEngine, startEngine_engineAnswers, ha, finishDispatch, hd, hc, Bool.false_eq_true,
    if_false]

/-- When a dispatch raises VIEW: nothing else happens (R182). -/
theorem dispatch_raises_view (b : Bool) {s : State} (hv : (activeDescs s).all (viewOk s.params) = false) :
    dispatch b s = .raised (raiseFault .view s) := by
  simp only [dispatch, hv, Bool.false_eq_true, if_false]

/-- What a dispatch can change, however it ends: the engine's ports and answers, the two counts (the second only when both
descriptors are active), and bytes of RX inside an active READ view. -/
theorem dispatch_frame (b : Bool) (s : State) :
    ∃ u : State,
      u = { s with
        engGo := u.engGo, engineAnswers := u.engineAnswers, engReadData := u.engReadData, freeDraws := u.freeDraws
        rxBuf := u.rxBuf
        desc0 := { s.desc0 with xferred := u.desc0.xferred }
        desc1 := { s.desc1 with xferred := u.desc1.xferred } } ∧
      (s.descCount = .one → u.desc1 = s.desc1) ∧
      (∀ i, ¬inReadView s i → u.rxBuf.byteAt? i = s.rxBuf.byteAt? i) ∧
      ((∀ i, ¬inReadView s i) → u.rxBuf = s.rxBuf) ∧
      ((∃ st, dispatch b s = .returned st u) ∨ dispatch b s = .hung u ∨
        ∃ c, (c = .view ∨ c = .xfer) ∧ dispatch b s = .raised (raiseFault c u)) := by
  obtain ⟨-, h⟩ | ⟨-, ⟨-, h⟩ | ⟨a, rest, u, -, hu, h⟩⟩ := dispatch_cases b s
  · exact ⟨s, rfl, fun _ => rfl, fun _ _ => rfl, fun _ => rfl, .inr (.inr ⟨_, .inl rfl, h⟩)⟩
  · exact ⟨startEngine b s, rfl, fun _ => rfl, fun _ _ => rfl, fun _ => rfl, .inr (.inl h)⟩
  · have ht := serveAccesses_touched a.accesses { startEngine b s with engineAnswers := rest }
    have ho := serveAccesses_outside a.accesses { startEngine b s with engineAnswers := rest }
    have hn := serveAccesses_noReadView a.accesses { startEngine b s with engineAnswers := rest }
    rw [← hu] at ht ho hn
    obtain ⟨-, h⟩ | ⟨d, -, -, h⟩ | ⟨d, -, -, h⟩ := h
    · exact ⟨u, by rw [ht]; rfl, fun _ => by rw [ht]; rfl, ho, hn, .inr (.inl h)⟩
    · exact ⟨_, by rw [latchXferred_eq, ht]; rfl, fun e => by rw [latchXferred_eq, ht]; simp [e, startEngine],
        by rw [latchXferred_eq]; exact ho, by rw [latchXferred_eq]; exact hn, .inl ⟨_, h⟩⟩
    · exact ⟨_, by rw [latchXferred_eq, ht]; rfl, fun e => by rw [latchXferred_eq, ht]; simp [e, startEngine],
        by rw [latchXferred_eq]; exact ho, by rw [latchXferred_eq]; exact hn, .inr (.inr ⟨_, .inr rfl, h⟩)⟩

/-- The accumulation of a request, and when it is refused (R207). -/
theorem accumulate_cases (x : Byte) (s : State) :
    (s.rxBufLen.toNat + x.toNat ≤ s.params.capacity.toNat ∧
      accumulate x s = some { s with rxBufLen := s.rxBufLen + x } ∧
      (s.rxBufLen + x).toNat = s.rxBufLen.toNat + x.toNat) ∨
    (s.params.capacity.toNat < s.rxBufLen.toNat + x.toNat ∧ accumulate x s = none) := by
  unfold accumulate
  split_ifs with h
  · refine .inl ⟨h, rfl, ?_⟩
    have := s.params.capacity.isLt
    rw [BitVec.toNat_add, Nat.mod_eq_of_lt (by omega)]
  · exact .inr ⟨by omega, rfl⟩

/-- The clamp never exceeds the capacity (R157). -/
theorem clampNum_toNat (p : Params) (n : Byte) : (clampNum p n).toNat = min n.toNat p.capacity.toNat := by
  unfold clampNum
  split_ifs with h <;> omega

end Sys2Proof.Machine
end

