-- ==== Sys2Proof/Laws/PerInstr.lean ====
section
/-! SUPPORT. One lemma for each command: family EncodeRow says that a command is well formed and that its word meets the
match and mask of its own row (spec/30_encoding.md R94). -/

namespace Sys2Proof.Laws.EncodeRow

open Sys2Proof

/-- The word of `i` meets its row of R94. -/
def Statement (i : Instr) : Prop :=
  i.wf = true ∧ encode i &&& i.opcode.maskBits = i.opcode.matchBits

theorem begin (addr : DevAddr) : Statement (.begin addr) := by
  refine ⟨rfl, (masked_iff _ _).mpr ?_⟩
  rw [encode, unpack_pack]
  simp [encodeFields, Instr.opcode, Opcode.maskFields, Opcode.matchFields]

theorem beginTx (addr : DevAddr) : Statement (.beginTx addr) := by
  refine ⟨rfl, (masked_iff _ _).mpr ?_⟩
  rw [encode, unpack_pack]
  simp [encodeFields, Instr.opcode, Opcode.maskFields, Opcode.matchFields]

theorem write (data : Byte) : Statement (.write data) := by
  refine ⟨rfl, (masked_iff _ _).mpr ?_⟩
  rw [encode, unpack_pack]
  simp [encodeFields, Instr.opcode, Opcode.maskFields, Opcode.matchFields]

theorem endTx (sendStop : Bool) : Statement (.endTx sendStop) := by
  refine ⟨rfl, (masked_iff _ _).mpr ?_⟩
  rw [encode, unpack_pack]
  simp [encodeFields, Instr.opcode, Opcode.maskFields, Opcode.matchFields]

theorem req (addr : DevAddr) (num : Byte) : Statement (.req addr num) := by
  refine ⟨rfl, (masked_iff _ _).mpr ?_⟩
  rw [encode, unpack_pack]
  simp [encodeFields, Instr.opcode, Opcode.maskFields, Opcode.matchFields]

theorem reqReg (addr : DevAddr) (reg num : Byte) : Statement (.reqReg addr reg num) := by
  refine ⟨rfl, (masked_iff _ _).mpr ?_⟩
  rw [encode, unpack_pack]
  simp [encodeFields, Instr.opcode, Opcode.maskFields, Opcode.matchFields]

theorem avail : Statement .avail := by
  refine ⟨rfl, (masked_iff _ _).mpr ?_⟩
  rw [encode, unpack_pack]
  simp [encodeFields, Instr.opcode, Opcode.maskFields, Opcode.matchFields]

theorem read : Statement .read := by
  refine ⟨rfl, (masked_iff _ _).mpr ?_⟩
  rw [encode, unpack_pack]
  simp [encodeFields, Instr.opcode, Opcode.maskFields, Opcode.matchFields]

end Sys2Proof.Laws.EncodeRow
end

