-- ==== Sys2Proof/Tests/Slice0.lean ====
section
/-! SUPPORT. The model's own tests. Expected values are from spec/95_test_vectors.md and spec/30_encoding.md, named at each;
the witnesses show that the hypotheses of each statement can be met together. -/

namespace Sys2Proof.Tests

open Sys2Proof Sys2Proof.Machine

/-- An instance with the given capacity, `SUCCESS` 0 and `EDATA` 1 (the vectors' defaults), right after reset. -/
def fresh (capacity : Byte) (answers : List EngineAnswer) : State :=
  State.resetWith { capacity := capacity, success := 0, edata := 1 } 0 0 [] answers

/-- The outcome is a next state, and the check holds of it. -/
def ends (r : Result) (check : State → Bool) : Bool :=
  match r with
  | .next t => check t
  | .fault _ => false
  | .refused _ => false

/-! ### Decoding: words of R110 and of 95 section 2.1, bit by bit -/

theorem test_decode_begin : decode 0b00010000000000000000000000000000#32 = .ok (.begin 0) := by decide
theorem test_decode_beginTx : decode 0b00100000000000000000000001010000#32 = .ok (.beginTx 0x50) := by decide
theorem test_decode_write : decode 0b00110000000010100000000000000000#32 = .ok (.write 0xA0) := by decide
theorem test_decode_endTx_stop : decode 0b01000000000000000000100000000000#32 = .ok (.endTx true) := by decide
theorem test_decode_endTx_nostop : decode 0b01000000000000000000000000000000#32 = .ok (.endTx false) := by decide
theorem test_decode_req : decode 0b01010000010000000000000001010000#32 = .ok (.req 0x50 4) := by decide
theorem test_decode_reqReg : decode 0b01100000010000010000000001010000#32 = .ok (.reqReg 0x50 0x10 4) := by decide
theorem test_decode_avail : decode 0b01110000000000000000000000000000#32 = .ok .avail := by decide
theorem test_decode_read : decode 0b10000000000000000000000000000000#32 = .ok .read := by decide

/-- 95 section 2.1: the extreme legal words. -/
theorem test_decode_extremes :
    decode 0x100003FF#32 = .ok (.begin 0x3FF) ∧ decode 0x300FF000#32 = .ok (.write 0xFF) ∧
    decode 0x5FF003FF#32 = .ok (.req 0x3FF 255) ∧ decode 0x6FFFF3FF#32 = .ok (.reqReg 0x3FF 0xFF 255) := by decide

/-- 95 section 2.1: words with a reserved opcode. -/
theorem test_decode_reserved :
    decode 0x00000000#32 = .error (.reservedOpcode 0) ∧ decode 0x90000000#32 = .error (.reservedOpcode 9) ∧
    decode 0xF0000000#32 = .error (.reservedOpcode 15) ∧ decode 0xFFFFFFFF#32 = .error (.reservedOpcode 15) := by decide

/-- 95 section 2.1: words with a nonzero bit where it must be zero. -/
theorem test_decode_unused_nonzero :
    decode 0x10000400#32 = .error (.nonzeroUnusedField 1) ∧ decode 0x10100000#32 = .error (.nonzeroUnusedField 1) ∧
    decode 0x20000450#32 = .error (.nonzeroUnusedField 2) ∧ decode 0x30000001#32 = .error (.nonzeroUnusedField 3) ∧
    decode 0x30100000#32 = .error (.nonzeroUnusedField 3) ∧ decode 0x40000801#32 = .error (.nonzeroUnusedField 4) ∧
    decode 0x40000400#32 = .error (.nonzeroUnusedField 4) ∧ decode 0x50001050#32 = .error (.nonzeroUnusedField 5) ∧
    decode 0x50400450#32 = .error (.nonzeroUnusedField 5) ∧ decode 0x6FFFF7FF#32 = .error (.nonzeroUnusedField 6) ∧
    decode 0x70000001#32 = .error (.nonzeroUnusedField 7) ∧ decode 0x80000800#32 = .error (.nonzeroUnusedField 8) := by
  decide

/-- R110, the column "word". -/
theorem test_encode_words :
    encode (.begin 0) = 0x10000000#32 ∧ encode (.beginTx 0x50) = 0x20000050#32 ∧
    encode (.write 0xA0) = 0x300A0000#32 ∧ encode (.write 0x01) = 0x30001000#32 ∧
    encode (.endTx true) = 0x40000800#32 ∧ encode (.endTx false) = 0x40000000#32 ∧
    encode (.req 0x50 4) = 0x50400050#32 ∧ encode (.reqReg 0x50 0x10 4) = 0x60410050#32 ∧
    encode .avail = 0x70000000#32 ∧ encode .read = 0x80000000#32 := by decide

theorem test_decodeTableWord : decodeTableWord 32 0x60410050 = some (.reqReg 0x50 0x10 4) := by decide

/-- R24, R25, R29: the codes of the named types. -/
theorem test_codes :
    Space.tx.code = 0 ∧ Space.rx.code = 1 ∧ Space.reg.code = 2 ∧ Space.reserved.code = 3 ∧
    Flag.write.code = 0 ∧ Flag.read.code = 1 ∧ DescCount.one.code = 1 ∧ DescCount.two.code = 2 := by decide

/-! ### Well-formedness: one ill-formed line for each check (R103, R105) -/

theorem test_wf_refuses_begin_addr : (AsmLine.begin 1024).wf = false := by decide
theorem test_wf_refuses_beginTx_addr : (AsmLine.beginTx (-1)).wf = false := by decide
theorem test_wf_refuses_write_byte : (AsmLine.write 256).wf = false := by decide
theorem test_wf_refuses_req_addr : (AsmLine.req 1024 0).wf = false := by decide
theorem test_wf_refuses_req_count : (AsmLine.req 0 (-1)).wf = false := by decide
theorem test_wf_refuses_reqReg_addr : (AsmLine.reqReg (-1) 0 0).wf = false := by decide
theorem test_wf_refuses_reqReg_reg : (AsmLine.reqReg 0 256 0).wf = false := by decide
theorem test_wf_refuses_reqReg_count : (AsmLine.reqReg 0 0 (-1)).wf = false := by decide
theorem test_wf_refuses_writeN_byte : (AsmLine.writeN [1, 256]).wf = false := by decide
theorem test_wf_accepts_bounds : (AsmLine.reqReg 1023 255 100000).wf = true := by decide

/-! ### The assembler (R103 to R109) -/

/-- R105: a count above 255 is written as 255. -/
theorem test_asm_narrow : assembleText "REQREG 0x50, 16, 300 ; a comment".toList = some [.reqReg 0x50 0x10 255] := by decide
/-- R104. -/
theorem test_asm_endtx_default : assembleText "ENDTX".toList = some [.endTx true] := by decide
/-- R108. -/
theorem test_asm_writen : assembleText "WRITEN 1, 0x02, 3".toList = some [.write 1, .write 2, .write 3] := by decide
/-- R109: the terminator ends the text and is not written. -/
theorem test_asm_writez : assemble (.writeZ [65, 66, 0, 67]) = some [.write 65, .write 66] := by decide
/-- R105. -/
theorem test_asm_negative : assembleText "REQ 0x50, -1".toList = none := by decide
/-- R110. -/
theorem test_asm_program :
    assembleProgram ["BEGINTX 0x50".toList, "WRITE 0xA0".toList, "ENDTX nostop".toList] =
      some [0x20000050#32, 0x300A0000#32, 0x40000000#32] := by decide

/-! ### One step each -/

/-- 95 section 2.2. -/
def midway : State :=
  { fresh 32 [] with
    txBufIdx := 5, txBufOverflow := true, rxBufIdx := 2, rxBufLen := 6, regScalar := 0x10
    desc0 := { Descriptor.zero with address := 0x50, length := 5 } }

theorem test_begin :
    ends (exec (.begin 0x42) midway) (fun t => t.selfAddress = 0x42 ∧ t.txBufIdx = 0 ∧ t.txBufOverflow = false ∧
      t.rxBufIdx = 0 ∧ t.rxBufLen = 0 ∧ t.desc0.length = 5 ∧ t.regScalar = 0x10 ∧ t.resp = some 0x0000) = true := by decide

/-- 95 section 2.3 (c): `xferred` is kept. -/
def bound2 : State :=
  { fresh 32 [] with desc0 := { Descriptor.zero with address := 0x50, length := 2, xferred := 2 } }

theorem test_beginTx :
    ends (exec (.beginTx 0x51) bound2) (fun t => t.desc0.address = 0x51 ∧ t.desc0.view.offset = 0 ∧
      t.desc0.length = 0 ∧ t.desc0.xferred = 2 ∧ t.desc0.flags = .write ∧ t.resp = some 0x0000) = true := by decide

/-- A write transaction of one byte staged, with the engine's answer `as`. -/
def staged (as : List EngineAnswer) : State :=
  { fresh 32 as with
    txBuf := [(0, 0xA0)], txBufIdx := 1
    desc0 := { Descriptor.zero with address := 0x50, length := 1 } }

/-- V1, second WRITE. -/
theorem test_write :
    ends (exec (.write 0x01) (staged [])) (fun t => t.txBuf = [(0, 0xA0), (1, 0x01)] ∧ t.txBufIdx = 2 ∧
      t.desc0.length = 2 ∧ t.resp = some 0x0000) = true := by decide

/-- A descriptor of the greatest length (95 section 2.4 (b)). -/
def longest : State := { fresh 32 [] with desc0 := { Descriptor.zero with length := 255 } }

/-- 95 section 2.4 (b): LEN. -/
theorem test_write_len :
    ends (exec (.write 0x77) longest) (fun t => t.fault = 0b1000 ∧ t.resp = some 0x4000 ∧ t.txBuf = [] ∧
      t.txBufIdx = 0) = true := by decide

/-- An engine that fetches the byte and completes with the given status and count. -/
def fetches (status x : Byte) : EngineAnswer :=
  { accesses := [.read 0 0], done := some { status := status, xferred0 := x, xferred1 := 0 } }

/-- An engine that never completes. -/
def silent : EngineAnswer := { accesses := [], done := none }

/-- 95 section 2.5 (a), with the failure status of (b): it is returned unchanged. -/
theorem test_endTx_failure :
    ends (exec (.endTx true) (staged [fetches 2 0])) (fun t => t.resp = some 0x0002 ∧ t.txBufIdx = 0 ∧ t.fault = 0 ∧
      t.engReadData = [0xA0] ∧ t.engGo = some {
        sendStop := true, count := .one
        descs := [{ address := 0x50, flags := .write, length := 1, data := [0xA0] }] }) = true := by decide

/-- 95 section 2.5 (c): XFER. -/
theorem test_endTx_xfer :
    ends (exec (.endTx true) (staged [fetches 0 2])) (fun t => t.resp = some 0x4000 ∧ t.txBufIdx = 1 ∧
      t.fault = 0b0010 ∧ t.desc0.xferred = 2) = true := by decide

/-- 95 section 2.7 (a): a short read; the rest of the view is whatever the engine wrote. -/
theorem test_req_short :
    ends (exec (.req 0x50 8) (fresh 32 [.doneWith 0 3 0 0 [0x31, 0x32, 0x33, 0xEE, 0xEE, 0xEE, 0xEE, 0xEE]]))
      (fun t => t.resp = some 0x0003 ∧ t.rxBufLen = 3 ∧ t.desc0.xferred = 3 ∧ t.desc0.flags = .write ∧
        t.rxBuf.byteAt? 2 = some 0x33 ∧ t.rxBuf.byteAt? 7 = some 0xEE ∧ t.rxBuf.byteAt? 8 = none) = true := by decide

/-- 95 section 2.7 (f): RXLEN. -/
theorem test_req_rxlen :
    ends (exec (.req 0x50 4) { fresh 32 [.doneWith 0 4 0 0 [1, 2, 3, 4]] with rxBufLen := 30 })
      (fun t => t.resp = some 0x4000 ∧ t.fault = 0b0100 ∧ t.rxBufLen = 30 ∧ t.desc0.flags = .read ∧
        t.rxBuf = [(0, 1), (1, 2), (2, 3), (3, 4)]) = true := by decide

/-- V2. -/
theorem test_reqReg :
    ends (exec (.reqReg 0x50 0x10 4) (fresh 32 [.doneWith 0 1 4 1 [0xDE, 0xAD, 0xBE, 0xEF]]))
      (fun t => t.resp = some 0x0004 ∧ t.regScalar = 0x10 ∧ t.descCount = .one ∧ t.desc1.flags = .write ∧
        t.rxBufLen = 4 ∧ t.engGo = some {
          sendStop := true, count := .two
          descs := [{ address := 0x50, flags := .write, length := 1, data := [0x10] },
            { address := 0x50, flags := .read, length := 4, data := [] }] }) = true := by decide

/-- 95 section 2.8 (e): VIEW on descriptor 1. -/
theorem test_reqReg_view :
    ends (exec (.reqReg 0x50 0x10 32) { fresh 32 [] with rxBufIdx := 1, rxBufLen := 2, rxBuf := [(0, 5), (1, 6)] })
      (fun t => t.resp = some 0x4000 ∧ t.fault = 0b0001 ∧ t.regScalar = 0x10 ∧ t.descCount = .two ∧
        t.desc1.flags = .read ∧ t.desc1.view.offset = 1 ∧ t.engGo = none) = true := by decide

/-- 95 section 2.9. -/
def draining : State := { fresh 32 [] with rxBufIdx := 1, rxBufLen := 4, rxBuf := [(0, 10), (1, 11), (2, 12), (3, 13)] }

theorem test_avail : ends (exec .avail draining) (fun t => t.resp = some 0x0003 ∧ t.rxBufIdx = 1) = true := by decide
theorem test_read : ends (exec .read draining) (fun t => t.resp = some 0x010B ∧ t.rxBufIdx = 2) = true := by decide
/-- The last byte. -/
theorem test_read_last :
    ends (exec .read { draining with rxBufIdx := 3 })
      (fun t => t.resp = some 0x010D ∧ t.rxBufIdx = 0 ∧ t.rxBufLen = 0) = true := by decide

/-- 95 section 2.10: decode order with `fault = 0001`. -/
theorem test_step_order :
    ends (step (State.withFetchWord { fresh 32 [] with fault := 1 } 32 0x90000000)) (fun t => t.resp = some 0x8000) = true ∧
    ends (step (State.withFetchWord { fresh 32 [] with fault := 1 } 32 0x70000000)) (fun t => t.resp = some 0x4000) = true := by
  decide

/-- 95 section 2.5 (d): the hang. -/
theorem test_step_hang :
    ends (step (State.withFetchWord (staged [silent]) 32 0x40000800))
      (fun t => t.busy = true ∧ t.resp = none ∧ t.txBufIdx = 1 ∧ t.fault = 0) = true := by decide

/-- R189, R232: a hung sequencer takes no command and takes a reset. -/
def hungWith (inputs : List HostInput) : State := { fresh 32 [] with busy := true, fault := 2, hostInputs := inputs }

theorem test_step_hung :
    ends (step (hungWith [.command 0x70000000])) (fun t => t.busy = true ∧ t.hostInputs.length = 1) = true ∧
    ends (step (hungWith [.reset])) (fun t => t.busy = false ∧ t.fault = 0 ∧ t.ramEpoch = 1) = true := by decide

/-! ### Witnesses: for each statement with hypotheses, states and operands that meet them all together; for a statement
with several clauses one for each, where the clauses meet -/

/-- A descriptor of `length` bytes at `offset` of a space. -/
def descAt (space : Space) (offset length : Byte) (flags : Flag) : Descriptor :=
  { address := 0x50, view := { space := space, offset := offset }, length := length, xferred := 0, flags := flags }

/-- An engine that only reports. -/
def reports (status x0 x1 : Byte) : EngineAnswer :=
  { accesses := [], done := some { status := status, xferred0 := x0, xferred1 := x1 } }

/-- An instance of capacity 4 with the given presented actions. -/
def offered (busy : Bool) (fault : BitVec 4) (inputs : List HostInput) : State :=
  { fresh 4 [] with busy := busy, fault := fault, hostInputs := inputs }

/-- An instance of capacity 4 with one READ descriptor bound at 1, three bytes long. -/
def reading (answers : List EngineAnswer) : State :=
  { fresh 4 answers with rxBufIdx := 1, rxBufLen := 3, desc0 := descAt .rx 1 3 .read }

/-- An instance of capacity 4 with the receive cursor at 1 and the receive length at `len`. -/
def partly (len : Byte) (answers : List EngineAnswer) : State :=
  { fresh 4 answers with rxBufIdx := 1, rxBufLen := len }

/-- An instance of capacity 4 whose WRITE descriptor is the last two bytes of the transmit buffer. -/
def lastTwo (answers : List EngineAnswer) : State :=
  { fresh 4 answers with txBufIdx := 4, txBuf := [(2, 7), (3, 8)], desc0 := descAt .tx 2 2 .write }

theorem witness_DecodeOfEncodeIsIdentity : (Instr.reqReg 0x3FF 0xFF 255).wf = true := by decide
theorem witness_EncodeOfDecodeIsIdentity : decode 0x6FFFF3FF#32 = .ok (.reqReg 0x3FF 0xFF 255) := by decide
theorem witness_CountNarrowingIsExact : (0 : Int) ≤ 256 ∧ narrowCount 255 = 255 ∧ narrowCount 256 = 255 := by decide
theorem witness_AssemblerWritesExpandToSingleBytes :
    (∀ b ∈ [(255 : Byte), 1], b ≠ 0) ∧ ((-1 : Int) < 0 ∨ (1023 : Int) < -1) ∧ ((1024 : Int) < 0 ∨ (1023 : Int) < 1024) ∧
    ((-1 : Int) < 0 ∨ (255 : Int) < -1) ∧ ((256 : Int) < 0 ∨ (255 : Int) < 256) ∧ (256 : Int) ∈ [(1 : Int), 256] ∧
    (-1 : Int) < 0 := by
  decide

theorem witness_StepExecutesTakenCommand :
    (offered false 0 [.command 0x50400050, .reset]).busy = false ∧
    (offered false 0 [.command 0x50400050, .reset]).hostInputs = .command 0x50400050 :: [.reset] ∧
    decode 0x50400050#32 = .ok (.req 0x50 4) := by decide
theorem witness_IllegalWordChangesNothing :
    (offered false 1 [.command 0x90000000]).busy = false ∧
    (offered false 1 [.command 0x90000000]).hostInputs = .command 0x90000000 :: [] ∧
    decode 0x90000000#32 = .error (.reservedOpcode 9) := by decide
theorem witness_HungSequencerTakesNoCommand :
    (offered true 0 [.command 0x10000000]).busy = true ∧
    (offered true 0 [.command 0x10000000]).hostInputs = .command 0x10000000 :: [] := by decide
theorem witness_ResetIsTakenInEveryState :
    (offered true 2 [.reset, .command 0x10000000]).hostInputs = .reset :: [.command 0x10000000] := by decide
theorem witness_FaultedSequencerRefusesEveryCommand :
    (offered false 8 [.command 0x10000000, .reset]).fault ≠ 0 ∧
    (∀ rest, (offered false 8 [.command 0x10000000, .reset]).hostInputs ≠ .reset :: rest) ∧
    (∃ t, step (offered false 8 [.command 0x10000000, .reset]) = .next t) ∧
    (offered true 8 [.reset]).hostInputs = .reset :: [] ∧ ∃ t, step (offered true 8 [.reset]) = .next t :=
  ⟨by decide, (fun _ h => nomatch h), ⟨_, rfl⟩, rfl, ⟨_, rfl⟩⟩
/-- Both ends: a response, and the hang. -/
theorem witness_TakenCommandRespondsOnceOrHangs :
    (offered false 0 [.command 0x70000000]).busy = false ∧
    (offered false 0 [.command 0x70000000]).hostInputs = .command 0x70000000 :: [] ∧
    (∃ t, step (offered false 0 [.command 0x70000000]) = .next t ∧ t.busy = false) ∧
    (offered false 0 [.command 0x50400050]).busy = false ∧
    (offered false 0 [.command 0x50400050]).hostInputs = .command 0x50400050 :: [] ∧
    ∃ t, step (offered false 0 [.command 0x50400050]) = .next t ∧ t.busy = true :=
  ⟨rfl, rfl, ⟨_, rfl, rfl⟩, rfl, rfl, ⟨_, rfl, rfl⟩⟩
/-- A value, a data byte, a fault. -/
theorem witness_ResponseBitsFollowLayout :
    (∃ t, exec .avail draining = .next t ∧ t.resp = some 0x0003#16) ∧
    (∃ t, exec .read draining = .next t ∧ t.resp = some 0x010B#16) ∧
    ∃ t, exec (.write 0x77) longest = .next t ∧ t.resp = some 0x4000#16 :=
  ⟨⟨_, rfl, rfl⟩, ⟨_, rfl, rfl⟩, ⟨_, rfl, rfl⟩⟩

theorem witness_BeginEmptiesCursorsAndLatchesAddress : midway.fault = 0 := by decide
theorem witness_BeginTwiceIsBeginOnce : midway.fault = 0 ∧ ∃ t, exec (.begin 0x3FF) midway = .next t := ⟨rfl, _, rfl⟩
theorem witness_BeginTxBindsDescriptorAtCursor : midway.fault = 0 := by decide
/-- Full; full and of length 255; room with length 255; room for one last byte, of length 254. -/
theorem witness_WriteStagesDropsOrFaults :
    (∀ s ∈ [{ fresh 4 [] with txBufIdx := 4 }, { fresh 255 [] with txBufIdx := 255, desc0 := descAt .tx 0 255 .write }],
      s.fault = 0 ∧ s.txBufIdx.toNat ≤ s.params.capacity.toNat ∧ s.txBufIdx = s.params.capacity) ∧
    (longest.fault = 0 ∧ longest.txBufIdx.toNat ≤ longest.params.capacity.toNat ∧
      longest.txBufIdx ≠ longest.params.capacity ∧ longest.desc0.length = 255) ∧
    ∀ s ∈ [{ fresh 255 [] with txBufIdx := 254, desc0 := descAt .tx 0 254 .write }, fresh 1 []],
      s.fault = 0 ∧ s.txBufIdx.toNat ≤ s.params.capacity.toNat ∧ s.txBufIdx ≠ s.params.capacity ∧ s.desc0.length ≠ 255 := by
  decide

theorem witness_EndTxAfterOverflowReturnsEdata : midway.fault = 0 ∧ midway.txBufOverflow = true := by decide
/-- A view that ends where the buffer ends, and a count equal to the length. -/
theorem witness_EndTxReturnsEngineStatus :
    (lastTwo [fetches 3 2]).fault = 0 ∧ (lastTwo [fetches 3 2]).txBufOverflow = false ∧
    (lastTwo [fetches 3 2]).descCount = .one ∧ (lastTwo [fetches 3 2]).desc0.flags = .write ∧
    (lastTwo [fetches 3 2]).desc0.view.space ≠ .reserved ∧
    (lastTwo [fetches 3 2]).desc0.view.offset.toNat + (lastTwo [fetches 3 2]).desc0.length.toNat ≤
      bound (lastTwo [fetches 3 2]).params (lastTwo [fetches 3 2]).desc0.view.space ∧
    (lastTwo [fetches 3 2]).engineAnswers = fetches 3 2 :: [] ∧
    (fetches 3 2).done = some { status := 3, xferred0 := 2, xferred1 := 0 } ∧
    (2 : Byte).toNat ≤ (lastTwo [fetches 3 2]).desc0.length.toNat := by decide

/-- The view and the sum both end at the capacity; and a clamped count. -/
theorem witness_ReqAccumulatesTransferredCount :
    (partly 3 [reports 0 1 0]).fault = 0 ∧ (partly 3 [reports 0 1 0]).descCount = .one ∧
    (3 : Byte).toNat = min (3 : Byte).toNat (partly 3 [reports 0 1 0]).params.capacity.toNat ∧
    (partly 3 [reports 0 1 0]).rxBufIdx.toNat + (3 : Byte).toNat ≤ (partly 3 [reports 0 1 0]).params.capacity.toNat ∧
    (partly 3 [reports 0 1 0]).engineAnswers = reports 0 1 0 :: [] ∧
    (reports 0 1 0).done = some { status := 0, xferred0 := 1, xferred1 := 0 } ∧ (1 : Byte).toNat ≤ (3 : Byte).toNat ∧
    (partly 3 [reports 0 1 0]).rxBufLen.toNat + (1 : Byte).toNat ≤ (partly 3 [reports 0 1 0]).params.capacity.toNat ∧
    (4 : Byte).toNat = min (255 : Byte).toNat (fresh 4 []).params.capacity.toNat := by decide
theorem witness_ReqRegAccumulatesSecondCount :
    (partly 3 [reports 0 1 1]).fault = 0 ∧
    (3 : Byte).toNat = min (3 : Byte).toNat (partly 3 [reports 0 1 1]).params.capacity.toNat ∧
    (partly 3 [reports 0 1 1]).rxBufIdx.toNat + (3 : Byte).toNat ≤ (partly 3 [reports 0 1 1]).params.capacity.toNat ∧
    (partly 3 [reports 0 1 1]).engineAnswers = reports 0 1 1 :: [] ∧
    (reports 0 1 1).done = some { status := 0, xferred0 := 1, xferred1 := 1 } ∧ (1 : Byte).toNat ≤ 1 ∧
    (1 : Byte).toNat ≤ (3 : Byte).toNat ∧
    (partly 3 [reports 0 1 1]).rxBufLen.toNat + (1 : Byte).toNat ≤ (partly 3 [reports 0 1 1]).params.capacity.toNat := by
  decide

/-- The same with an engine that gives the view all its three bytes and counts one, for REQ and for REQREG. -/
theorem witness_requests_receive (k : Nat) :
    (partly 3 [.doneWith 0 1 1 k [7, 8, 9]]).fault = 0 ∧ (partly 3 [.doneWith 0 1 1 k [7, 8, 9]]).descCount = .one ∧
    (partly 3 [.doneWith 0 1 1 k [7, 8, 9]]).engineAnswers = EngineAnswer.doneWith 0 1 1 k [7, 8, 9] :: [] ∧
    (EngineAnswer.doneWith 0 1 1 k [7, 8, 9]).done = some { status := 0, xferred0 := 1, xferred1 := 1 } ∧
    [(7 : Byte), 8, 9].length = (3 : Byte).toNat := ⟨rfl, rfl, rfl, rfl, rfl⟩

theorem witness_AvailReturnsUnreadCount : draining.fault = 0 ∧ draining.rxBufIdx.toNat ≤ draining.rxBufLen.toNat := by decide
/-- Empty; the last byte of a full buffer; at least two unread bytes. -/
theorem witness_ReadReturnsNextByteOrSentinel :
    (∀ s ∈ [fresh 4 [], { fresh 4 [] with rxBufIdx := 3, rxBufLen := 4 }, { fresh 4 [] with rxBufIdx := 2, rxBufLen := 4 }],
      s.fault = 0 ∧ s.rxBufIdx.toNat ≤ s.rxBufLen.toNat ∧ s.rxBufLen.toNat ≤ s.params.capacity.toNat) ∧
    (fresh 4 []).rxBufIdx.toNat = (fresh 4 []).rxBufLen.toNat ∧ (3 : Byte).toNat + 1 = (4 : Byte).toNat ∧
    (2 : Byte).toNat + 1 < (4 : Byte).toNat := by decide

/-- ENDTX: the reserved space, and one byte past the buffer; REQ and REQREG: one byte past the buffer. -/
theorem witness_ViewOutOfBoundsStartsNoEngine :
    (∀ s ∈ [{ fresh 4 [] with desc0 := descAt .reserved 0 0 .write }, { fresh 4 [] with desc0 := descAt .tx 3 2 .write }],
      s.fault = 0 ∧ s.txBufOverflow = false ∧ s.descCount = .one ∧
      (s.desc0.view.space = .reserved ∨
        bound s.params s.desc0.view.space < s.desc0.view.offset.toNat + s.desc0.length.toNat)) ∧
    (partly 3 []).fault = 0 ∧ (partly 3 []).descCount = .one ∧
    (4 : Byte).toNat = min (9 : Byte).toNat (partly 3 []).params.capacity.toNat ∧
    (partly 3 []).params.capacity.toNat < (partly 3 []).rxBufIdx.toNat + (4 : Byte).toNat := by decide

/-- One more than the length: ENDTX. -/
theorem witness_CountAboveLengthRaisesXfer_endTx :
    (lastTwo [fetches 0 3]).fault = 0 ∧ (lastTwo [fetches 0 3]).txBufOverflow = false ∧
    (lastTwo [fetches 0 3]).descCount = .one ∧ (lastTwo [fetches 0 3]).desc0.flags = .write ∧
    (lastTwo [fetches 0 3]).desc0.view.space ≠ .reserved ∧
    (lastTwo [fetches 0 3]).desc0.view.offset.toNat + (lastTwo [fetches 0 3]).desc0.length.toNat ≤
      bound (lastTwo [fetches 0 3]).params (lastTwo [fetches 0 3]).desc0.view.space ∧
    (lastTwo [fetches 0 3]).engineAnswers = fetches 0 3 :: [] ∧
    (fetches 0 3).done = some { status := 0, xferred0 := 3, xferred1 := 0 } ∧
    (lastTwo [fetches 0 3]).desc0.length.toNat < (3 : Byte).toNat := by decide
/-- REQ: 4 of 3. REQREG: 2 of the register byte's 1 with a full second count, and 4 of 3 of the second. -/
theorem witness_CountAboveLengthRaisesXfer_requests (x0 x1 : Byte) :
    (partly 3 [reports 0 x0 x1]).fault = 0 ∧ (partly 3 [reports 0 x0 x1]).descCount = .one ∧
    (3 : Byte).toNat = min (3 : Byte).toNat (partly 3 [reports 0 x0 x1]).params.capacity.toNat ∧
    (partly 3 [reports 0 x0 x1]).rxBufIdx.toNat + (3 : Byte).toNat ≤
      (partly 3 [reports 0 x0 x1]).params.capacity.toNat ∧
    (partly 3 [reports 0 x0 x1]).engineAnswers = reports 0 x0 x1 :: [] ∧
    (reports 0 x0 x1).done = some { status := 0, xferred0 := x0, xferred1 := x1 } ∧
    (3 : Byte).toNat < (4 : Byte).toNat ∧ (1 < (2 : Byte).toNat ∨ (3 : Byte).toNat < (3 : Byte).toNat) ∧
    (1 < (1 : Byte).toNat ∨ (3 : Byte).toNat < (4 : Byte).toNat) :=
  ⟨rfl, rfl, rfl, by show 1 + 3 ≤ 4; decide, rfl, rfl, by decide, by decide, by decide⟩

/-- One more than the capacity. -/
theorem witness_ReceiveLengthAboveCapacityRaisesRxlen :
    (partly 4 [reports 0 1 1]).fault = 0 ∧ (partly 4 [reports 0 1 1]).descCount = .one ∧
    (3 : Byte).toNat = min (3 : Byte).toNat (partly 4 [reports 0 1 1]).params.capacity.toNat ∧
    (partly 4 [reports 0 1 1]).rxBufIdx.toNat + (3 : Byte).toNat ≤ (partly 4 [reports 0 1 1]).params.capacity.toNat ∧
    (partly 4 [reports 0 1 1]).engineAnswers = reports 0 1 1 :: [] ∧
    (reports 0 1 1).done = some { status := 0, xferred0 := 1, xferred1 := 1 } ∧ (1 : Byte).toNat ≤ 1 ∧
    (1 : Byte).toNat ≤ (3 : Byte).toNat ∧
    (partly 4 [reports 0 1 1]).params.capacity.toNat < (partly 4 [reports 0 1 1]).rxBufLen.toNat + (1 : Byte).toNat := by
  decide

/-- No answer, and the answer that never completes; each with what ENDTX, REQ and REQREG ask for. -/
theorem witness_UnansweredDispatchHangs :
    (lastTwo []).engineAnswers = [] ∧ (lastTwo [silent]).engineAnswers = silent :: [] ∧ silent.done = none ∧
    (∀ s ∈ [lastTwo [], lastTwo [silent]], s.fault = 0 ∧ s.txBufOverflow = false ∧ s.descCount = .one ∧
      s.desc0.flags = .write ∧ s.desc0.view.space ≠ .reserved ∧
      s.desc0.view.offset.toNat + s.desc0.length.toNat ≤ bound s.params s.desc0.view.space ∧
      (4 : Byte).toNat = min (200 : Byte).toNat s.params.capacity.toNat ∧
      s.rxBufIdx.toNat + (4 : Byte).toNat ≤ s.params.capacity.toNat) := by decide

/-- Each way `fault` can be afterwards. -/
theorem witness_OnlyNamedCommandsRaiseEachFault :
    midway.fault = 0 ∧ (∃ t, exec .avail midway = .next t ∧ t.fault = 0) ∧
    (partly 3 []).fault = 0 ∧ (∃ t, exec (.req 0x50 4) (partly 3 []) = .next t ∧ t.fault = 0b0001#4) ∧
    (lastTwo [fetches 0 3]).fault = 0 ∧ (∃ t, exec (.endTx true) (lastTwo [fetches 0 3]) = .next t ∧ t.fault = 0b0010#4) ∧
    (partly 4 [reports 0 1 1]).fault = 0 ∧
    (∃ t, exec (.reqReg 0x50 1 3) (partly 4 [reports 0 1 1]) = .next t ∧ t.fault = 0b0100#4) ∧
    longest.fault = 0 ∧ ∃ t, exec (.write 1) longest = .next t ∧ t.fault = 0b1000#4 :=
  ⟨rfl, ⟨_, rfl, rfl⟩, rfl, ⟨_, rfl, rfl⟩, rfl, ⟨_, rfl, rfl⟩, rfl, ⟨_, rfl, rfl⟩, rfl, ⟨_, rfl, rfl⟩⟩

/-- The last position of the view is admitted; the next one, a READ descriptor and an inactive descriptor are not. -/
theorem witness_EngineReadAnswersViewByte :
    (activeDesc? 0 (lastTwo []) = some (descAt .tx 2 2 .write) ∧ (descAt .tx 2 2 .write).flags = .write ∧
      1 < (descAt .tx 2 2 .write).length.toNat ∧ (descAt .tx 2 2 .write).view.space ≠ .reserved ∧
      (descAt .tx 2 2 .write).view.offset.toNat + (descAt .tx 2 2 .write).length.toNat ≤
        bound (lastTwo []).params (descAt .tx 2 2 .write).view.space) ∧
    (descAt .tx 2 2 .write).length.toNat ≤ 2 ∧
    (activeDesc? 0 (reading []) = some (descAt .rx 1 3 .read) ∧ (descAt .rx 1 3 .read).flags = .read) ∧
    activeDesc? 1 (lastTwo []) = none := by decide

theorem witness_AnsweredBytesReplaceView :
    activeDesc? 0 (reading []) = some (descAt .rx 1 3 .read) ∧ (descAt .rx 1 3 .read).flags = .read ∧
    (descAt .rx 1 3 .read).view.space = .rx ∧
    (descAt .rx 1 3 .read).view.offset.toNat + (descAt .rx 1 3 .read).length.toNat ≤ (reading []).params.capacity.toNat ∧
    [(7 : Byte), 8, 9].length = (descAt .rx 1 3 .read).length.toNat ∧ 2 < (descAt .rx 1 3 .read).length.toNat := by decide

/-- An engine that writes two bytes into the view of descriptor `k` and counts two; and asks, without effect, for a write at
the third position of a descriptor that is not active. -/
def writesTwo (k x0 x1 : Nat) : EngineAnswer :=
  { accesses := fillView k 0 [0x31, 0x32] ++ [.write 2 2 0x33]
    done := some { status := 0, xferred0 := BitVec.ofNat 8 x0, xferred1 := BitVec.ofNat 8 x1 } }

/-- Position 2 of the view, the only one at or above the count, reads as before. -/
theorem writesTwo_prefix_req : (writesTwo 0 2 0).writesPrefixOnly (stageReq 0x50 3 (partly 2 [writesTwo 0 2 0])) := by
  intro e he k d hk hr p h1 h2
  cases he
  match k, hk with
  | 0, hk =>
    cases hk
    obtain rfl : p = 2 := by
      have h1 : 2 ≤ p := h1
      have h2 : p < 3 := h2
      omega
    rfl

theorem writesTwo_prefix_reqReg :
    (writesTwo 1 1 2).writesPrefixOnly (stageReqReg 0x50 7 3 (partly 2 [writesTwo 1 1 2])) := by
  intro e he k d hk hr p h1 h2
  cases he
  match k, hk with
  | 0, hk => cases hk; cases hr
  | 1, hk =>
    cases hk
    obtain rfl : p = 2 := by
      have h1 : 2 ≤ p := h1
      have h2 : p < 3 := h2
      omega
    rfl

theorem witness_PrefixOnlyEngineKeepsRestOfView :
    ((partly 2 [writesTwo 0 2 0]).fault = 0 ∧ (partly 2 [writesTwo 0 2 0]).engineAnswers = writesTwo 0 2 0 :: [] ∧
      (writesTwo 0 2 0).done = some { status := 0, xferred0 := 2, xferred1 := 0 } ∧
      (partly 2 [writesTwo 0 2 0]).descCount = .one ∧
      (writesTwo 0 2 0).writesPrefixOnly (stageReq 0x50 3 (partly 2 [writesTwo 0 2 0])) ∧
      ∃ t, exec (.req 0x50 3) (partly 2 [writesTwo 0 2 0]) = .next t ∧ t.fault = 0) ∧
    ((partly 2 [writesTwo 1 1 2]).fault = 0 ∧ (partly 2 [writesTwo 1 1 2]).engineAnswers = writesTwo 1 1 2 :: [] ∧
      (writesTwo 1 1 2).done = some { status := 0, xferred0 := 1, xferred1 := 2 } ∧
      (writesTwo 1 1 2).writesPrefixOnly (stageReqReg 0x50 7 3 (partly 2 [writesTwo 1 1 2])) ∧
      ∃ t, exec (.reqReg 0x50 7 3) (partly 2 [writesTwo 1 1 2]) = .next t ∧ t.fault = 0) ∧
    (1 : Byte).toNat + (2 : Byte).toNat ≤ 3 :=
  ⟨⟨rfl, rfl, rfl, rfl, writesTwo_prefix_req, _, rfl, rfl⟩, ⟨rfl, rfl, rfl, writesTwo_prefix_reqReg, _, rfl, rfl⟩, by decide⟩

/-- The state ENDTX's dispatch starts in after BEGINTX and two WRITEs. -/
def twoWritten : State :=
  { fresh 4 [reports 0 2 0] with
    txBuf := [(0, 7), (1, 8)], txBufIdx := 2, resp := some 0
    desc0 := { address := 0x50, view := { space := .tx, offset := 0 }, length := 2, xferred := 0, flags := .write } }

theorem witness_WrittenBytesGoOnTheBusInOrder :
    (fresh 4 [reports 0 2 0]).fault = 0 ∧ (fresh 4 [reports 0 2 0]).txBufIdx = 0 ∧
    (fresh 4 [reports 0 2 0]).descCount = .one ∧ [(7 : Byte), 8].length ≤ (fresh 4 [reports 0 2 0]).params.capacity.toNat ∧
    (reports 0 2 0).done = some { status := 0, xferred0 := 2, xferred1 := 0 } ∧
    (2 : Byte).toNat = [(7 : Byte), 8].length ∧
    execSeq (.beginTx 0x50 :: [(7 : Byte), 8].map .write) (fresh 4 [reports 0 2 0]) = .next twoWritten ∧
    (reports 0 2 0).sendsViewInOrder (fun _ => [7, 8]) twoWritten := by
  refine ⟨rfl, rfl, rfl, by decide, rfl, rfl, rfl, ?_⟩
  intro k d hk _
  match k, hk with
  | 0, hk =>
    cases hk
    exact ⟨by decide, fun e he _ => by cases he; decide⟩

theorem witness_TerminatingEngineNeverHangs :
    (lastTwo [fetches 0 2]).engineAnswers = fetches 0 2 :: [] ∧ (fetches 0 2).terminates ∧
    ∃ t, exec (.endTx true) (lastTwo [fetches 0 2]) = .next t :=
  ⟨rfl, by simp [EngineAnswer.terminates, fetches], _, rfl⟩

/-- A view out of bounds, before an engine that would keep to the length. -/
def badView : State := { fresh 4 [reports 0 2 0] with desc0 := descAt .tx 3 2 .write }

theorem witness_CountsWithinLengthNeverRaiseXfer :
    badView.engineAnswers = reports 0 2 0 :: [] ∧ (reports 0 2 0).countsWithinLength badView ∧
    ∃ u, dispatch true badView = .raised u := by
  refine ⟨rfl, ?_, _, rfl⟩
  intro d hd
  simp only [reports, Option.some.injEq] at hd
  subst hd
  decide

theorem witness_StatusReachesOnlyEndTxResponse :
    (lastTwo [fetches 3 2]).engineAnswers = fetches 3 2 :: [] ∧
    (fetches 3 2).done = some { status := 3, xferred0 := 2, xferred1 := 0 } ∧
    ∃ t, exec (.endTx false) (lastTwo [fetches 3 2]) = .next t := ⟨rfl, rfl, _, rfl⟩

theorem witness_OnlyNamedCommandsWriteEachRegister :
    midway.descCount = .one ∧ midway.desc0.flags = .write ∧ ∃ t, exec (.write 9) midway = .next t := ⟨rfl, rfl, _, rfl⟩

/-- Bytes in the receive buffer, and READ presented. -/
def drainNext : State := { draining with hostInputs := [.command 0x80000000] }

theorem drainNext_inv : Inv drainNext where
  paramsWf := by decide
  txWf := by decide
  txWithin := by decide
  rxWf := by decide
  rxWithin := by decide
  txIdx := by decide
  txOverflow := by decide
  rxIdx := by decide
  rxLen := by decide
  rxEmpty := by decide
  faultOne := .inl rfl
  space0 := by decide
  offset0 := by decide
  space1 := .inl rfl
  offset1 := by decide
  length1 := by decide
  readRx0 := by decide
  readRx1 := by decide
  atRest := by decide

theorem witness_ResetStateSatisfiesInv : ({ capacity := 255, success := 1, edata := 0 } : Params).wf = true := by decide
theorem witness_EveryStepKeepsInv :
    Inv drainNext ∧ ∃ t, step drainNext = .next t := ⟨drainNext_inv, _, rfl⟩
theorem witness_InvStatesAlwaysStep : Inv drainNext := drainNext_inv

theorem witness_DrainReturnsBytesInOrder :
    draining.fault = 0 ∧ draining.rxBufIdx.toNat + 3 = draining.rxBufLen.toNat ∧
    draining.rxBufLen.toNat ≤ draining.params.capacity.toNat := by decide
theorem witness_WritesUpToCapacityAreStaged :
    (fresh 4 []).fault = 0 ∧ (fresh 4 []).txBufIdx = 0 ∧ (fresh 4 []).txBufOverflow = false ∧
    [(1 : Byte), 2, 3, 4].length ≤ (fresh 4 []).params.capacity.toNat ∧
    [(1 : Byte), 2, 3, 4].length = (fresh 4 []).params.capacity.toNat := by decide
theorem witness_WriteTransactionReachesEngine :
    (fresh 4 [fetches 0 2]).fault = 0 ∧ (fresh 4 [fetches 0 2]).txBufIdx = 0 ∧
    (fresh 4 [fetches 0 2]).txBufOverflow = false ∧ (fresh 4 [fetches 0 2]).descCount = .one ∧
    [(1 : Byte), 2].length ≤ (fresh 4 [fetches 0 2]).params.capacity.toNat ∧
    (fresh 4 [fetches 0 2]).engineAnswers = fetches 0 2 :: [] ∧
    (fetches 0 2).done = some { status := 0, xferred0 := 2, xferred1 := 0 } ∧
    (2 : Byte).toNat ≤ [(1 : Byte), 2].length := by decide
/-- Every byte counted, from a count that is clamped. -/
theorem witness_RegisterReadDrainsEngineBytes :
    (fresh 3 [.doneWith 0 1 3 1 [7, 8, 9]]).fault = 0 ∧ (fresh 3 [.doneWith 0 1 3 1 [7, 8, 9]]).rxBufIdx = 0 ∧
    (fresh 3 [.doneWith 0 1 3 1 [7, 8, 9]]).rxBufLen = 0 ∧
    (3 : Byte).toNat = min (200 : Byte).toNat (fresh 3 [.doneWith 0 1 3 1 [7, 8, 9]]).params.capacity.toNat ∧
    [(7 : Byte), 8, 9].length = (3 : Byte).toNat ∧ (1 : Byte).toNat ≤ 1 ∧ (3 : Byte).toNat ≤ (3 : Byte).toNat ∧
    (fresh 3 [.doneWith 0 1 3 1 [7, 8, 9]]).engineAnswers = EngineAnswer.doneWith 0 1 3 1 [7, 8, 9] :: [] := by decide

end Sys2Proof.Tests
end

/-! The family of the state: what a step and each command can do, the invariant, and which command writes which register. -/

namespace Sys2Proof.Machine

open Sys2Proof

/-! ### What a step, a taken command and a dispatching command can do -/

/-- A word that waits at a busy sequencer is not taken (R40, R91). -/
theorem takeInput_waiting {s : State} {w : CmdWord} {rest : List HostInput} (hb : s.busy = true)
    (hi : s.hostInputs = .command w :: rest) : takeInput s = .nothing := by
  simp [takeInput, hi, cmdReady, hb]

/-- A step finds nothing to take, a reset, or a word that a ready sequencer takes (R222, R232, R91). -/
theorem takeInput_cases (s : State) :
    takeInput s = .nothing ∨
    (∃ rest, s.hostInputs = .reset :: rest ∧ takeInput s = .reset { s with hostInputs := rest }) ∨
    (∃ w rest, s.hostInputs = .command w :: rest ∧ s.busy = false ∧
      takeInput s = .word w { s with hostInputs := rest }) := by
  cases hi : s.hostInputs with
  | nil => exact .inl (by simp [takeInput, hi])
  | cons a rest =>
    cases a with
    | reset => exact .inr (.inl ⟨rest, rfl, by simp [takeInput, hi]⟩)
    | command w =>
      cases hb : s.busy with
      | true => exact .inl (takeInput_waiting hb hi)
      | false => exact .inr (.inr ⟨w, rest, rfl, rfl, by simp [takeInput, hi, cmdReady, hb]⟩)

/-- Every step that goes on holds the state, resets it, or runs the word that a ready sequencer takes. -/
theorem step_cases {s t : State} (h : step s = .next t) :
    t = s ∨
    (∃ rest, s.hostInputs = .reset :: rest ∧ t = hardReset { s with hostInputs := rest }) ∨
    (∃ w rest, s.hostInputs = .command w :: rest ∧ s.busy = false ∧
      runWord w { s with hostInputs := rest } = .next t) := by
  obtain e | ⟨rest, hi, e⟩ | ⟨w, rest, hi, hb, e⟩ := takeInput_cases s <;> rw [step, e] at h
  · exact .inl (Host.Outcome.next.inj h).symm
  · exact .inr (.inl ⟨rest, hi, (Host.Outcome.next.inj h).symm⟩)
  · exact .inr (.inr ⟨w, rest, hi, hb, h⟩)

/-- A taken word that goes on is refused as illegal, or is a command that goes on (R101). -/
theorem runWord_cases {w : CmdWord} {s t : State} (h : runWord w s = .next t) :
    ((∃ e, decode w = .error e) ∧ t = refuseIllegal s) ∨ ∃ i, decode w = .ok i ∧ exec i s = .next t := by
  unfold runWord at h
  cases hd : decode w with
  | error e => rw [hd] at h; cases h; exact .inl ⟨⟨e, rfl⟩, rfl⟩
  | ok i => rw [hd] at h; exact .inr ⟨i, rfl, h⟩

/-- The state a dispatch ends in, however it ends. -/
def Dispatched.state : Dispatched → State
  | .returned _ s => s
  | .raised s => s
  | .hung s => s

/-- A dispatch keeps the receive buffer in canonical form and inside its bounds. -/
theorem dispatch_rxBuf_wf (b : Bool) {s : State} (hw : s.rxBuf.wf) (hi : s.rxBuf.within s.params.capacity.toNat) :
    (dispatch b s).state.rxBuf.wf ∧ (dispatch b s).state.rxBuf.within s.params.capacity.toNat := by
  obtain ⟨-, e⟩ | ⟨-, ⟨-, e⟩ | ⟨a, rest, u, -, rfl, h⟩⟩ := dispatch_cases b s
  · rw [e]; exact ⟨hw, hi⟩
  · rw [e]; exact ⟨hw, hi⟩
  · have hu := serveAccesses_rxBuf_wf a.accesses (s := { startEngine b s with engineAnswers := rest }) hw hi
    obtain ⟨-, e⟩ | ⟨d, -, -, e⟩ | ⟨d, -, -, e⟩ := h <;> rw [e]
    · exact hu
    · rw [latchXferred_eq]; exact hu
    · rw [latchXferred_eq]; exact hu

/-- What a dispatch from `s` may have changed when it ends with `u` (before the fault bit, if it raises one). -/
structure DispatchFrame (s u : State) : Prop where
  eq : u = { s with
    engGo := u.engGo, engineAnswers := u.engineAnswers, engReadData := u.engReadData, freeDraws := u.freeDraws
    rxBuf := u.rxBuf
    desc0 := { s.desc0 with xferred := u.desc0.xferred }
    desc1 := { s.desc1 with xferred := u.desc1.xferred } }
  desc1_of_one : s.descCount = .one → u.desc1 = s.desc1
  rxBuf_of_noReadView : (∀ i, ¬inReadView s i) → u.rxBuf = s.rxBuf
  rxBuf_wf : s.rxBuf.wf → s.rxBuf.within s.params.capacity.toNat →
    u.rxBuf.wf ∧ u.rxBuf.within s.params.capacity.toNat

/-- A dispatching command always goes on: with its closing lines on a status, hung, or with a fault raised. -/
theorem dispatch_andThen_cases (b : Bool) (s : State) (k : Byte → State → State) :
    ∃ u, DispatchFrame s u ∧
      ((∃ st, (dispatch b s).andThen k = .next (k st u)) ∨ (dispatch b s).andThen k = .next u ∨
        ∃ c, (dispatch b s).andThen k = .next (raiseFault c u)) := by
  obtain ⟨u, hu, h1, -, hn, h⟩ := dispatch_frame b s
  have hrx := dispatch_rxBuf_wf b (s := s)
  refine ⟨u, ⟨hu, h1, hn, fun hw hi => ?_⟩, ?_⟩
  · obtain ⟨st, e⟩ | e | ⟨c, -, e⟩ := h <;> rw [e] at hrx <;> exact hrx hw hi
  · obtain ⟨st, e⟩ | e | ⟨c, -, e⟩ := h <;> rw [e]
    · exact .inl ⟨st, rfl⟩
    · exact .inr (.inl rfl)
    · exact .inr (.inr ⟨c, rfl⟩)

/-- The lines of a request after its dispatch: the count is added and the command closes, or RXLEN is raised (R207). -/
theorem finishRequest_cases (count : State → Byte) (closing : State → State) (s : State) :
    (s.rxBufLen.toNat + (count s).toNat ≤ s.params.capacity.toNat ∧
      finishRequest count closing s =
        respond (s.rxBufLen + count s) false (closing { s with rxBufLen := s.rxBufLen + count s })) ∨
    finishRequest count closing s = raiseFault .rxlen s := by
  unfold finishRequest
  obtain ⟨hle, e, -⟩ | ⟨-, e⟩ := accumulate_cases (count s) s <;> rw [e]
  · exact .inl ⟨hle, rfl⟩
  · exact .inr rfl

/-! ### What each command can do

One lemma per command: the next states it can end in, over the accepted state. -/

section
variable {s t : State}

/-- A command that goes on while `fault` is not zero is refused (R203). -/
theorem exec_of_fault {i : Instr} (hf : s.fault ≠ 0) (h : exec i s = .next t) : t = complete 0x4000#16 (accept s) := by
  have refused : exec i s = .next (complete 0x4000#16 (accept s)) := by cases i <;> exact if_neg hf
  exact Host.Outcome.next.inj (h.symm.trans refused)

/-- While `fault` is zero a command is its body on the accepted state (R101). -/
theorem command_of_noFault {body : State → Result} (hf : s.fault = 0) (h : command body s = .next t) :
    body (accept s) = .next t := by
  rwa [command, if_pos hf] at h

/-- BEGIN (R120). -/
theorem execBegin_next {addr : DevAddr} (hf : s.fault = 0) (h : execBegin addr s = .next t) :
    t = respond 0 false (emptyRx (emptyTx { accept s with selfAddress := addr })) := by
  have h := command_of_noFault hf h
  exact (Host.Outcome.next.inj h).symm

/-- BEGINTX (R131). -/
theorem execBeginTx_next {addr : DevAddr} (hf : s.fault = 0) (h : execBeginTx addr s = .next t) :
    t = respond 0 false { accept s with desc0 := beginTxDesc addr (accept s) } := by
  have h := command_of_noFault hf h
  exact (Host.Outcome.next.inj h).symm

/-- WRITE on a full buffer, on a descriptor of length 255, or with room (R133). -/
theorem execWrite_cases {b : Byte} (hf : s.fault = 0) (h : execWrite b s = .next t) :
    (s.txBufIdx = s.params.capacity ∧ t = respond 0 false { accept s with txBufOverflow := true }) ∨
    (s.txBufIdx ≠ s.params.capacity ∧ s.desc0.length = 255 ∧ t = raiseFault .len (accept s)) ∨
    (s.txBufIdx ≠ s.params.capacity ∧ s.desc0.length ≠ 255 ∧ s.txBufIdx.toNat < s.params.capacity.toNat ∧
      t = respond 0 false
        { accept s with
          txBuf := s.txBuf.store s.txBufIdx.toNat b
          txBufIdx := s.txBufIdx + 1
          desc0 := { s.desc0 with length := s.desc0.length + 1 } }) := by
  have h := command_of_noFault hf h
  split_ifs at h with hfull hlen
  · exact .inl ⟨by simpa [txFull] using hfull, (Host.Outcome.next.inj h).symm⟩
  · exact .inr (.inl ⟨by simpa [txFull] using hfull, hlen, (Host.Outcome.next.inj h).symm⟩)
  · unfold stageByte at h
    cases hm : memWrite .tx (accept s).txBufIdx.toNat b (accept s) with
    | none => rw [hm] at h; cases h
    | some u =>
      rw [hm] at h
      obtain ⟨hi, rfl⟩ := memWrite_tx_some hm
      exact .inr (.inr ⟨by simpa [txFull] using hfull, hlen, hi, (Host.Outcome.next.inj h).symm⟩)

/-- ENDTX after an overflow, or with a dispatch that completes, hangs or raises a fault (R136, R180). -/
theorem execEndTx_cases {sendStop : Bool} (hf : s.fault = 0) (h : execEndTx sendStop s = .next t) :
    t = respond s.params.edata false (emptyTx (accept s)) ∨
    ∃ u, DispatchFrame (accept s) u ∧
      ((∃ st, t = respond st false (emptyTx u)) ∨ t = u ∨ ∃ c, t = raiseFault c u) := by
  have h := command_of_noFault hf h
  split_ifs at h with hov
  · exact .inl (Host.Outcome.next.inj h).symm
  · obtain ⟨u, hu, e⟩ := dispatch_andThen_cases sendStop (accept s) (fun st t => respond st false (emptyTx t))
    rw [h] at e
    simp only [Host.Outcome.next.injEq] at e
    exact .inr ⟨u, hu, e⟩

/-- A request from its staged state `a` on: completed with its count added, hung, or with a fault raised (R151, R155). -/
def RequestEnds (a : State) (count : State → Byte) (closing : State → State) (t : State) : Prop :=
  ∃ u, DispatchFrame a u ∧
    ((u.rxBufLen.toNat + (count u).toNat ≤ u.params.capacity.toNat ∧
        t = respond (u.rxBufLen + count u) false (closing { u with rxBufLen := u.rxBufLen + count u })) ∨
      t = u ∨ ∃ c, t = raiseFault c u)

theorem requestEnds_of_dispatch {a : State} {count : State → Byte} {closing : State → State}
    (h : (dispatch true a).andThen (fun _ u => finishRequest count closing u) = .next t) :
    RequestEnds a count closing t := by
  obtain ⟨u, hu, e⟩ := dispatch_andThen_cases true a (fun _ u => finishRequest count closing u)
  rw [h] at e
  simp only [Host.Outcome.next.injEq] at e
  refine ⟨u, hu, ?_⟩
  obtain ⟨-, rfl⟩ | e := e
  · exact (finishRequest_cases count closing u).imp id fun e => .inr ⟨_, e⟩
  · exact .inr e

/-- REQ (R151). -/
theorem execReq_cases {addr : DevAddr} {num : Byte} (hf : s.fault = 0) (h : execReq addr num s = .next t) :
    RequestEnds (stageReq addr num (accept s)) (fun u => u.desc0.xferred) closeReq t :=
  requestEnds_of_dispatch (command_of_noFault hf h)

/-- REQREG (R155). -/
theorem execReqReg_cases {addr : DevAddr} {reg num : Byte} (hf : s.fault = 0)
    (h : execReqReg addr reg num s = .next t) :
    RequestEnds (stageReqReg addr reg num (accept s)) (fun u => u.desc1.xferred) closeReqReg t :=
  requestEnds_of_dispatch (command_of_noFault hf h)

/-- AVAIL, where it does not stop (R170). -/
theorem execAvail_next (hf : s.fault = 0) (h : execAvail s = .next t) :
    s.rxBufIdx.toNat ≤ s.rxBufLen.toNat ∧ t = respond (s.rxBufLen - s.rxBufIdx) false (accept s) := by
  have h := command_of_noFault hf h
  split_ifs at h with hle
  exact ⟨hle, (Host.Outcome.next.inj h).symm⟩

/-- READ on an empty buffer, of the last byte, or with more bytes behind (R172). -/
theorem execRead_cases (hf : s.fault = 0) (h : execRead s = .next t) :
    (s.rxBufIdx = s.rxBufLen ∧ t = respond 0 false (emptyRx (accept s))) ∨
    (s.rxBufIdx ≠ s.rxBufLen ∧ ∃ v, memRead .rx s.rxBufIdx.toNat s = some v ∧
      ((s.rxBufIdx.toNat + 1 = s.rxBufLen.toNat ∧ t = respond v true (emptyRx (accept s))) ∨
       (s.rxBufIdx.toNat + 1 ≠ s.rxBufLen.toNat ∧
        t = respond v true { accept s with rxBufIdx := s.rxBufIdx + 1 }))) := by
  have h := command_of_noFault hf h
  by_cases hempty : rxEmpty (accept s)
  · rw [if_pos hempty] at h
    exact .inl ⟨by simpa [rxEmpty] using hempty, (Host.Outcome.next.inj h).symm⟩
  · rw [if_neg hempty] at h
    refine .inr ⟨by simpa [rxEmpty] using hempty, ?_⟩
    cases hm : memRead .rx (accept s).rxBufIdx.toNat (accept s) with
    | none => simp only [hm] at h; cases h
    | some v =>
      refine ⟨v, hm, ?_⟩
      simp only [hm] at h
      split_ifs at h with hlast
      · exact .inl ⟨by simpa [rxLast] using hlast, (Host.Outcome.next.inj h).symm⟩
      · exact .inr ⟨by simpa [rxLast] using hlast, (Host.Outcome.next.inj h).symm⟩

end

/-! ### The invariant: one rule per operation -/

/-- A cause's bit is not zero (R39). -/
theorem Cause.bit_ne_zero (c : Cause) : c.bit ≠ 0 := by cases c <;> decide

/-- What `Inv.atRest` asks of a completed command: one active descriptor, and no READ flag left (R27 (a), R29). -/
def Rested (s : State) : Prop :=
  s.descCount = .one ∧ s.desc0.flags = .write ∧ s.desc1.flags = .write

/-- A state in which the body of a legal command runs: accepted, not faulted, and at rest before. -/
structure Executing (s : State) : Prop where
  inv : Inv s
  busy : s.busy = true
  fault : s.fault = 0
  rested : Rested s

section
variable {s u : State}

/-- A capacity is not zero (R8). -/
theorem capacity_pos {p : Params} (h : p.wf = true) : 0 < p.capacity.toNat := by
  simp only [Params.wf, Bool.and_eq_true, bne_iff_ne] at h
  exact Nat.pos_of_ne_zero fun h0 => h.1 (BitVec.eq_of_toNat_eq h0)

theorem inv_resetWith {p : Params} (hp : p.wf = true) (epoch draws : Nat) (inputs : List HostInput)
    (answers : List EngineAnswer) : Inv (State.resetWith p epoch draws inputs answers) where
  paramsWf := hp
  txWf := .nil
  txWithin := nofun
  rxWf := .nil
  rxWithin := nofun
  txIdx := Nat.zero_le _
  txOverflow := nofun
  rxIdx := Nat.le_refl 0
  rxLen := Nat.zero_le _
  rxEmpty := fun _ => rfl
  faultOne := .inl rfl
  space0 := nofun
  offset0 := Nat.zero_le _
  space1 := .inl rfl
  offset1 := capacity_pos hp
  length1 := Nat.zero_le _
  readRx0 := nofun
  readRx1 := nofun
  atRest := fun _ _ => ⟨rfl, rfl, rfl⟩

/-- What `Inv.atRest` asks is not asked while a command executes (R27 (a)). -/
theorem absurd_of_busy {P : Prop} (hb : s.busy = true) (h0 : s.busy = false) : P :=
  Bool.noConfusion (hb.symm.trans h0)

theorem inv_accept (h : Inv s) : Inv (accept s) := { h with atRest := nofun }

theorem inv_complete (r : RespWord) (h : Inv s) (hr : s.fault = 0 → Rested s) : Inv (complete r s) :=
  { h with atRest := fun _ => hr }

theorem inv_raiseFault (c : Cause) (h : Inv s) (hf : s.fault = 0) : Inv (raiseFault c s) :=
  have hbit : (raiseFault c s).fault = c.bit := by simp [hf]
  { h with
    faultOne := .inr ⟨c, hbit⟩
    atRest := fun _ h0 => absurd (hbit.symm.trans h0) c.bit_ne_zero }

theorem inv_emptyTx (h : Inv s) : Inv (emptyTx s) :=
  { h with txIdx := Nat.zero_le _, txOverflow := nofun }

theorem inv_emptyRx (h : Inv s) : Inv (emptyRx s) :=
  { h with rxIdx := Nat.le_refl 0, rxLen := Nat.zero_le _, rxEmpty := fun _ => rfl }

/-- The rule of a dispatch: the counts, the engine's ports and bytes of RX are all that changes. -/
theorem inv_dispatched (h : Inv s) (hb : s.busy = true) (hu : DispatchFrame s u) : Inv u := by
  obtain ⟨hwf, hwithin⟩ := hu.rxBuf_wf h.rxWf h.rxWithin
  rw [hu.eq]
  exact { h with rxWf := hwf, rxWithin := hwithin, atRest := absurd_of_busy hb }

theorem rested_dispatched (h : Rested s) (hu : DispatchFrame s u) : Rested u := by
  rw [hu.eq]; exact h

theorem rested_emptyTx (h : Rested s) : Rested (emptyTx s) := h

theorem DispatchFrame.fault_eq (hu : DispatchFrame s u) : u.fault = s.fault := by rw [hu.eq]

/-- The rule of the accumulation (R207). The cursor meets the new length only on an empty buffer that got no byte. -/
theorem inv_accumulate {x : Byte} (h : Inv s) (hle : s.rxBufLen.toNat + x.toNat ≤ s.params.capacity.toNat) :
    Inv { s with rxBufLen := s.rxBufLen + x } := by
  have hsum : (s.rxBufLen + x).toNat = s.rxBufLen.toNat + x.toNat := BitVec.toNat_add_of_lt (by omega)
  have hidx := h.rxIdx
  exact { h with
    rxIdx := by simp only [hsum]; omega
    rxLen := by simp only [hsum]; omega
    rxEmpty := fun (e : s.rxBufIdx = s.rxBufLen + x) => h.rxEmpty (BitVec.eq_of_toNat_eq (by rw [← e] at hsum; omega))
    atRest := h.atRest }

/-- The read cursor is below the capacity: it reaches no further than the length, and meets it only at 0 (R35). -/
theorem rxBufIdx_lt_capacity (h : Inv s) : s.rxBufIdx.toNat < s.params.capacity.toNat := by
  have hpos := capacity_pos h.paramsWf
  have hidx := h.rxIdx
  have hlen := h.rxLen
  by_cases he : s.rxBufIdx = s.rxBufLen
  · simpa [h.rxEmpty he] using hpos
  · have hne : s.rxBufIdx.toNat ≠ s.rxBufLen.toNat := fun e => he (BitVec.eq_of_toNat_eq e)
    omega

theorem inv_stageReq (addr : DevAddr) (num : Byte) (h : Executing s) : Inv (stageReq addr num s) :=
  { h.inv with
    space0 := nofun
    offset0 := Nat.le_of_lt (rxBufIdx_lt_capacity h.inv)
    readRx0 := fun _ => rfl
    atRest := absurd_of_busy h.busy }

theorem inv_stageReqReg (addr : DevAddr) (reg num : Byte) (h : Executing s) : Inv (stageReqReg addr reg num s) :=
  { h.inv with
    space0 := nofun
    offset0 := Nat.zero_le _
    space1 := .inr rfl
    offset1 := rxBufIdx_lt_capacity h.inv
    length1 := (clampNum_toNat s.params num).trans_le (Nat.min_le_right _ _)
    readRx0 := nofun
    readRx1 := fun _ => rfl
    atRest := absurd_of_busy h.busy }

theorem inv_closeReq (h : Inv s) (hb : s.busy = true) : Inv (closeReq s) :=
  { h with readRx0 := nofun, atRest := absurd_of_busy hb }

theorem inv_closeReqReg (h : Inv s) (hb : s.busy = true) : Inv (closeReqReg s) :=
  { h with readRx1 := nofun, atRest := absurd_of_busy hb }

theorem executing_accept (h : Inv s) (hb : s.busy = false) (hf : s.fault = 0) : Executing (accept s) :=
  ⟨inv_accept h, rfl, hf, h.atRest hb hf⟩

/-- A WRITE on a full buffer sets the flag where the cursor is at the capacity (R32). -/
theorem inv_overflowed (h : Inv s) (hfull : s.txBufIdx = s.params.capacity) : Inv { s with txBufOverflow := true } :=
  { h with txOverflow := fun _ => hfull, atRest := h.atRest }

/-- A WRITE with room moves the cursor at most up to the capacity; the overflow flag is not set, for it is set only at the
capacity (R31, R32). -/
theorem inv_stagedByte {b : Byte} (h : Inv s) (hne : s.txBufIdx ≠ s.params.capacity)
    (hi : s.txBufIdx.toNat < s.params.capacity.toNat) :
    Inv { s with
      txBuf := s.txBuf.store s.txBufIdx.toNat b
      txBufIdx := s.txBufIdx + 1
      desc0 := { s.desc0 with length := s.desc0.length + 1 } } :=
  { h with
    txWf := Memory.store_wf _ b h.txWf
    txWithin := Memory.store_within b hi h.txWithin
    txIdx := by
      have hlt := s.params.capacity.isLt
      have hsum : (s.txBufIdx + 1#8).toNat = s.txBufIdx.toNat + 1 := BitVec.toNat_add_of_lt (by simp; omega)
      exact hsum.trans_le hi
    txOverflow := fun ho => absurd (h.txOverflow ho) hne
    atRest := h.atRest }

/-- A READ with at least two unread bytes leaves the cursor below the length (R35). -/
theorem inv_cursorNext (h : Inv s) (hne : s.rxBufIdx ≠ s.rxBufLen) (hlast : s.rxBufIdx.toNat + 1 ≠ s.rxBufLen.toNat) :
    Inv { s with rxBufIdx := s.rxBufIdx + 1 } := by
  have hne' : s.rxBufIdx.toNat ≠ s.rxBufLen.toNat := fun e => hne (BitVec.eq_of_toNat_eq e)
  have hidx := h.rxIdx
  have hsum : (s.rxBufIdx + 1#8).toNat = s.rxBufIdx.toNat + 1 := BitVec.toNat_add_of_lt (by simp; omega)
  have hlt : (s.rxBufIdx + 1#8).toNat < s.rxBufLen.toNat := by omega
  exact { h with
    rxIdx := Nat.le_of_lt hlt
    rxEmpty := fun e => absurd (congrArg BitVec.toNat e) (Nat.ne_of_lt hlt)
    atRest := h.atRest }

/-! ### Every command, then every step, keeps the invariant -/

theorem begin_keeps_inv (addr : DevAddr) (h : Executing s) :
    Inv (respond 0 false (emptyRx (emptyTx { s with selfAddress := addr }))) :=
  inv_complete _ (inv_emptyRx (inv_emptyTx { h.inv with atRest := h.inv.atRest })) fun _ => h.rested

theorem beginTx_keeps_inv (addr : DevAddr) (h : Executing s) :
    Inv (respond 0 false { s with desc0 := beginTxDesc addr s }) := by
  obtain ⟨hcount, -, hflag1⟩ := h.rested
  have hbound : Inv { s with desc0 := beginTxDesc addr s } :=
    { h.inv with space0 := nofun, offset0 := h.inv.txIdx, readRx0 := nofun, atRest := absurd_of_busy h.busy }
  exact inv_complete _ hbound fun _ => ⟨hcount, rfl, hflag1⟩

theorem execWrite_keeps_inv {b : Byte} (h : Inv s) (hb : s.busy = false) (hf : s.fault = 0)
    (e : execWrite b s = .next u) : Inv u := by
  have ha := executing_accept h hb hf
  obtain ⟨hfull, rfl⟩ | ⟨-, -, rfl⟩ | ⟨hne, -, hi, rfl⟩ := execWrite_cases hf e
  · exact inv_complete _ (inv_overflowed ha.inv hfull) fun _ => ha.rested
  · exact inv_raiseFault _ ha.inv hf
  · exact inv_complete _ (inv_stagedByte ha.inv hne hi) fun _ => ha.rested

theorem execEndTx_keeps_inv {sendStop : Bool} (h : Inv s) (hb : s.busy = false) (hf : s.fault = 0)
    (e : execEndTx sendStop s = .next u) : Inv u := by
  have ha := executing_accept h hb hf
  obtain rfl | ⟨v, hv, e⟩ := execEndTx_cases hf e
  · exact inv_complete _ (inv_emptyTx ha.inv) fun _ => ha.rested
  · have hi : Inv v := inv_dispatched ha.inv rfl hv
    obtain ⟨st, rfl⟩ | rfl | ⟨c, rfl⟩ := e
    · exact inv_complete _ (inv_emptyTx hi) fun _ => rested_emptyTx (rested_dispatched ha.rested hv)
    · exact hi
    · exact inv_raiseFault c hi (hv.fault_eq.trans hf)

/-- A request keeps the invariant if its staging does and its closing writes do and clear the READ flag. -/
theorem requestEnds_keeps_inv {a t : State} {count : State → Byte} {closing : State → State}
    (h : RequestEnds a count closing t) (ha : Inv a) (hb : a.busy = true) (hf : a.fault = 0)
    (hinv : ∀ v, Inv v → v.busy = true → Inv (closing v))
    (hrest : ∀ u len, DispatchFrame a u → Rested (closing { u with rxBufLen := len })) : Inv t := by
  obtain ⟨u, hu, e⟩ := h
  have hi : Inv u := inv_dispatched ha hb hu
  obtain ⟨hle, rfl⟩ | rfl | ⟨c, rfl⟩ := e
  · have hbu : u.busy = true := by rw [hu.eq]; exact hb
    exact inv_complete _ (hinv _ (inv_accumulate hi hle) hbu) fun _ => hrest u _ hu
  · exact hi
  · exact inv_raiseFault c hi (hu.fault_eq.trans hf)

theorem execReq_keeps_inv {addr : DevAddr} {num : Byte} (h : Inv s) (hb : s.busy = false) (hf : s.fault = 0)
    (e : execReq addr num s = .next u) : Inv u := by
  have ha := executing_accept h hb hf
  refine requestEnds_keeps_inv (execReq_cases hf e) (inv_stageReq addr num ha) rfl hf (fun _ => inv_closeReq) ?_
  intro v len hv
  obtain ⟨hcount, -, hflag1⟩ := ha.rested
  rw [hv.eq]
  exact ⟨hcount, rfl, hflag1⟩

theorem execReqReg_keeps_inv {addr : DevAddr} {reg num : Byte} (h : Inv s) (hb : s.busy = false) (hf : s.fault = 0)
    (e : execReqReg addr reg num s = .next u) : Inv u := by
  have ha := executing_accept h hb hf
  refine requestEnds_keeps_inv (execReqReg_cases hf e) (inv_stageReqReg addr reg num ha) rfl hf
    (fun _ => inv_closeReqReg) ?_
  intro v len hv
  rw [hv.eq]
  exact ⟨rfl, rfl, rfl⟩

theorem execRead_keeps_inv (h : Inv s) (hb : s.busy = false) (hf : s.fault = 0) (e : execRead s = .next u) : Inv u := by
  have ha := executing_accept h hb hf
  obtain ⟨-, rfl⟩ | ⟨hne, v, -, ⟨-, rfl⟩ | ⟨hlast, rfl⟩⟩ := execRead_cases hf e
  · exact inv_complete _ (inv_emptyRx ha.inv) fun _ => ha.rested
  · exact inv_complete _ (inv_emptyRx ha.inv) fun _ => ha.rested
  · exact inv_complete _ (inv_cursorNext ha.inv hne hlast) fun _ => ha.rested

/-- Every command that a ready sequencer runs keeps the invariant. -/
theorem exec_keeps_inv {i : Instr} (h : Inv s) (hb : s.busy = false) (e : exec i s = .next u) : Inv u := by
  by_cases hf : s.fault = 0
  · have ha := executing_accept h hb hf
    cases i with
    | begin addr => rw [execBegin_next hf e]; exact begin_keeps_inv addr ha
    | beginTx addr => rw [execBeginTx_next hf e]; exact beginTx_keeps_inv addr ha
    | write b => exact execWrite_keeps_inv h hb hf e
    | endTx sendStop => exact execEndTx_keeps_inv h hb hf e
    | req addr num => exact execReq_keeps_inv h hb hf e
    | reqReg addr reg num => exact execReqReg_keeps_inv h hb hf e
    | avail => rw [(execAvail_next hf e).2]; exact inv_complete _ ha.inv fun _ => ha.rested
    | read => exact execRead_keeps_inv h hb hf e
  · rw [exec_of_fault hf e]
    exact inv_complete _ (inv_accept h) fun h0 => absurd h0 hf

theorem inv_withHostInputs (h : Inv s) (rest : List HostInput) : Inv { s with hostInputs := rest } :=
  { h with atRest := h.atRest }

theorem step_keeps_inv (h : Inv s) (e : step s = .next u) : Inv u := by
  obtain rfl | ⟨rest, -, rfl⟩ | ⟨w, rest, -, hb, e⟩ := step_cases e
  · exact h
  · exact inv_resetWith h.paramsWf _ _ _ _
  · have hi := inv_withHostInputs h rest
    obtain ⟨-, rfl⟩ | ⟨i, -, e⟩ := runWord_cases e
    · exact inv_complete _ (inv_accept hi) (hi.atRest hb)
    · exact exec_keeps_inv hi hb e

end

/-! ### Which command writes which register and buffer -/

/-- What a command of row `o` may have changed when it takes `s` to `t` (R28, R30, R33, R36, R38, R72). The ports, `busy` and
`fault` are not spoken of. -/
structure WritesOnlyNamed (o : Opcode) (s t : State) : Prop where
  params : t.params = s.params
  hostInputs : t.hostInputs = s.hostInputs
  ramEpoch : t.ramEpoch = s.ramEpoch
  selfAddress : o ≠ .begin → t.selfAddress = s.selfAddress
  txBuf : o ≠ .write → t.txBuf = s.txBuf
  rxBuf : o ≠ .req → o ≠ .reqReg → t.rxBuf = s.rxBuf
  registerWrite : o ≠ .reqReg → t.regScalar = s.regScalar ∧ t.desc1 = s.desc1 ∧ t.descCount = s.descCount
  txCursor : o ≠ .begin → o ≠ .write → o ≠ .endTx →
    t.txBufIdx = s.txBufIdx ∧ t.txBufOverflow = s.txBufOverflow
  rxBufIdx : o ≠ .begin → o ≠ .read → t.rxBufIdx = s.rxBufIdx
  rxBufLen : o ≠ .begin → o ≠ .read → o ≠ .req → o ≠ .reqReg → t.rxBufLen = s.rxBufLen
  desc0_kept : o = .begin ∨ o = .avail ∨ o = .read → t.desc0 = s.desc0
  desc0_endTx : o = .endTx → t.desc0 = { s.desc0 with xferred := t.desc0.xferred }
  desc0_write : o = .write → t.desc0 = { s.desc0 with length := t.desc0.length }

section
variable {o : Opcode} {s t u : State}

/-- Taking a command is not spoken of. -/
theorem writesOnlyNamed_accept (o : Opcode) (s : State) : WritesOnlyNamed o s (accept s) := by
  constructor <;> simp

/-- Nor is completing it. -/
theorem writesOnlyNamed_complete (r : RespWord) (h : WritesOnlyNamed o s t) : WritesOnlyNamed o s (complete r t) :=
  { h with }

/-- Nor is raising a fault. -/
theorem writesOnlyNamed_raiseFault (c : Cause) (h : WritesOnlyNamed o s t) : WritesOnlyNamed o s (raiseFault c t) :=
  { h with }

/-- With one active descriptor, a WRITE one, no byte lies in an active READ view. -/
theorem noReadView_of_oneWrite (hc : s.descCount = .one) (hw : s.desc0.flags = .write) (i : Nat) : ¬inReadView s i := by
  rintro ⟨d, hd, hr, -⟩
  have hd0 : d = s.desc0 := by simpa [activeDescs, hc] using hd
  rw [hd0, hw] at hr
  cases hr

/-- What a dispatch adds to the changes before it is allowed to ENDTX, REQ and REQREG: `desc[0].xferred` to all three,
`desc[1].xferred` only with two descriptors active, and bytes of RX only in a READ view. -/
theorem writesOnlyNamed_dispatched (h : WritesOnlyNamed o s t) (hu : DispatchFrame t u)
    (ho : o = .endTx ∨ o = .req ∨ o = .reqReg) (hdesc1 : o = .reqReg ∨ t.descCount = .one)
    (hrx : o = .req ∨ o = .reqReg ∨ ∀ i, ¬inReadView t i) : WritesOnlyNamed o s u := by
  have hd1 : o ≠ .reqReg → u.desc1 = t.desc1 := fun hne => hu.desc1_of_one (hdesc1.resolve_left hne)
  have hd1eq : u.desc1 = { t.desc1 with xferred := u.desc1.xferred } := congrArg State.desc1 hu.eq
  have hr : o ≠ .req → o ≠ .reqReg → u.rxBuf = t.rxBuf := fun hq hqr =>
    hu.rxBuf_of_noReadView ((hrx.resolve_left hq).resolve_left hqr)
  rw [hu.eq]
  exact { h with
    rxBuf := fun hq hqr => (hr hq hqr).trans (h.rxBuf hq hqr)
    registerWrite := fun hne => by
      obtain ⟨hreg, hdesc, hcount⟩ := h.registerWrite hne
      exact ⟨hreg, (hd1eq.symm.trans (hd1 hne)).trans hdesc, hcount⟩
    desc0_kept := by rintro (rfl | rfl | rfl) <;> simp at ho
    desc0_endTx := fun he => congrArg (fun d : Descriptor => { d with xferred := u.desc0.xferred }) (h.desc0_endTx he)
    desc0_write := by rintro rfl; simp at ho }

theorem execEndTx_writesOnlyNamed {sendStop : Bool} (hc : s.descCount = .one) (hw : s.desc0.flags = .write)
    (hf : s.fault = 0) (e : execEndTx sendStop s = .next t) : WritesOnlyNamed .endTx s t := by
  have emptied {v : State} (h : WritesOnlyNamed .endTx s v) : WritesOnlyNamed .endTx s (emptyTx v) :=
    { h with txCursor := fun _ _ hne => absurd rfl hne }
  have ha := writesOnlyNamed_accept .endTx s
  obtain rfl | ⟨u, hu, e⟩ := execEndTx_cases hf e
  · exact writesOnlyNamed_complete _ (emptied ha)
  · have hd : WritesOnlyNamed .endTx s u :=
      writesOnlyNamed_dispatched ha hu (.inl rfl) (.inr hc) (.inr (.inr (noReadView_of_oneWrite hc hw)))
    obtain ⟨st, rfl⟩ | rfl | ⟨c, rfl⟩ := e
    · exact writesOnlyNamed_complete _ (emptied hd)
    · exact hd
    · exact writesOnlyNamed_raiseFault c hd

/-- A request writes only what it is named for if its staging and its closing writes do. -/
theorem requestEnds_writesOnlyNamed {a : State} {count : State → Byte} {closing : State → State}
    (h : RequestEnds a count closing t) (ha : WritesOnlyNamed o s a) (ho : o = .req ∨ o = .reqReg)
    (hdesc1 : o = .reqReg ∨ a.descCount = .one)
    (hclose : ∀ v len, WritesOnlyNamed o s v → WritesOnlyNamed o s (closing { v with rxBufLen := len })) :
    WritesOnlyNamed o s t := by
  obtain ⟨u, hu, e⟩ := h
  have hd : WritesOnlyNamed o s u :=
    writesOnlyNamed_dispatched ha hu (.inr ho) hdesc1 (ho.imp_right .inl)
  obtain ⟨-, rfl⟩ | rfl | ⟨c, rfl⟩ := e
  · exact writesOnlyNamed_complete _ (hclose u _ hd)
  · exact hd
  · exact writesOnlyNamed_raiseFault c hd

theorem execReq_writesOnlyNamed {addr : DevAddr} {num : Byte} (hc : s.descCount = .one) (hf : s.fault = 0)
    (e : execReq addr num s = .next t) : WritesOnlyNamed .req s t := by
  refine requestEnds_writesOnlyNamed (execReq_cases hf e) ?_ (.inl rfl) (.inr hc) fun v len h => ?_
  · constructor <;> simp
  · exact { h with
      rxBufLen := fun _ _ hne => absurd rfl hne
      desc0_kept := by simp
      desc0_endTx := nofun
      desc0_write := nofun }

theorem execReqReg_writesOnlyNamed {addr : DevAddr} {reg num : Byte} (hf : s.fault = 0)
    (e : execReqReg addr reg num s = .next t) : WritesOnlyNamed .reqReg s t := by
  refine requestEnds_writesOnlyNamed (execReqReg_cases hf e) ?_ (.inr rfl) (.inl rfl) fun v len h => ?_
  · constructor <;> simp
  · exact { h with
      registerWrite := fun hne => absurd rfl hne
      rxBufLen := fun _ _ _ hne => absurd rfl hne }

theorem exec_writesOnlyNamed {i : Instr} (hc : s.descCount = .one) (hw : s.desc0.flags = .write)
    (e : exec i s = .next t) : WritesOnlyNamed i.opcode s t := by
  by_cases hf : s.fault = 0
  · cases i with
    | begin addr => rw [execBegin_next hf e]; constructor <;> simp [Instr.opcode]
    | beginTx addr => rw [execBeginTx_next hf e]; constructor <;> simp [Instr.opcode]
    | write b =>
      obtain ⟨-, rfl⟩ | ⟨-, -, rfl⟩ | ⟨-, -, -, rfl⟩ := execWrite_cases hf e <;> constructor <;> simp [Instr.opcode]
    | endTx sendStop => exact execEndTx_writesOnlyNamed hc hw hf e
    | req addr num => exact execReq_writesOnlyNamed hc hf e
    | reqReg addr reg num => exact execReqReg_writesOnlyNamed hf e
    | avail => rw [(execAvail_next hf e).2]; constructor <;> simp [Instr.opcode]
    | read =>
      obtain ⟨-, rfl⟩ | ⟨-, v, -, ⟨-, rfl⟩ | ⟨-, rfl⟩⟩ := execRead_cases hf e <;> constructor <;> simp [Instr.opcode]
  · rw [exec_of_fault hf e]
    exact writesOnlyNamed_complete _ (writesOnlyNamed_accept _ s)

end

/-- Settles O12. -/
theorem resetStateHoldsTableValues : Obligations.ResetStateHoldsTableValues := by
  unfold Obligations.ResetStateHoldsTableValues
  exact ⟨rfl, rfl, rfl, rfl, rfl, rfl, rfl, rfl, rfl, rfl, rfl, fun _ => ⟨rfl, rfl⟩⟩

/-- Settles O10: a waiting word is not taken, so the step finds nothing. -/
theorem hungSequencerTakesNoCommand : Obligations.HungSequencerTakesNoCommand := by
  unfold Obligations.HungSequencerTakesNoCommand
  intro s w rest hb hi
  rw [step, takeInput_waiting hb hi]

/-- Settles O40: `State.reset` is the reset state of the default parameters, which meet R8 and R10. -/
theorem resetStateSatisfiesInv : Obligations.ResetStateSatisfiesInv := by
  unfold Obligations.ResetStateSatisfiesInv
  have hdefault : Params.default.wf = true := by decide
  exact ⟨inv_resetWith hdefault 0 0 [] [],
    fun _ epoch draws inputs answers hp => inv_resetWith hp epoch draws inputs answers⟩

/-- Settles O41, by the case a step is in and, for a command, by the states its command can end in. -/
theorem everyStepKeepsInv : Obligations.EveryStepKeepsInv := by
  unfold Obligations.EveryStepKeepsInv
  exact fun _ _ => step_keeps_inv

/-- Settles O39, by the states each command can end in. -/
theorem onlyNamedCommandsWriteEachRegister : Obligations.OnlyNamedCommandsWriteEachRegister := by
  unfold Obligations.OnlyNamedCommandsWriteEachRegister
  intro i s t hc hw e
  have h := exec_writesOnlyNamed hc hw e
  exact ⟨h.params, h.hostInputs, h.ramEpoch, h.selfAddress, h.txBuf, h.rxBuf, h.registerWrite, h.txCursor, h.rxBufIdx,
    h.rxBufLen, h.desc0_kept, h.desc0_endTx, h.desc0_write⟩

end Sys2Proof.Machine

/-! The family of the memory: the engine's accesses to the buffers, and a write transaction from BEGINTX to ENDTX. -/

namespace Sys2Proof.Machine

open Sys2Proof

/-! ### What the engine's accesses leave as it was -/

section
variable {s t : State}

theorem onlyEngineTouched.params (h : onlyEngineTouched s t) : t.params = s.params := by rw [h]
theorem onlyEngineTouched.ramEpoch (h : onlyEngineTouched s t) : t.ramEpoch = s.ramEpoch := by rw [h]
theorem onlyEngineTouched.txBuf (h : onlyEngineTouched s t) : t.txBuf = s.txBuf := by rw [h]
theorem onlyEngineTouched.regScalar (h : onlyEngineTouched s t) : t.regScalar = s.regScalar := by rw [h]

theorem onlyEngineTouched.memRead_tx (h : onlyEngineTouched s t) (i : Nat) : memRead .tx i t = memRead .tx i s :=
  memRead_tx_congr h.params h.ramEpoch i (by rw [h.txBuf])

theorem onlyEngineTouched.memRead_reg (h : onlyEngineTouched s t) : memRead .reg 0 t = memRead .reg 0 s := by
  simp [h.regScalar]

end

/-- Settles O32, by what each access can touch (R70). -/
theorem engineChangesOnlyReadViews : Obligations.EngineChangesOnlyReadViews := by
  unfold Obligations.EngineChangesOnlyReadViews
  intro as s
  have h := serveAccesses_touched as s
  exact ⟨h, fun i hi => memRead_rx_congr h.params h.ramEpoch i (serveAccesses_outside as s i hi), h.memRead_tx,
    h.memRead_reg⟩

/-! ### The engine's reads (R69) -/

section
variable {k p : Nat} {s : State} {d : Descriptor}

/-- A byte below the bound of its space exists (20_memory.md R60). -/
theorem exists_memRead {sp : Space} {i : Nat} (h : i < bound s.params sp) : ∃ b, memRead sp i s = some b := by
  rw [← Option.isSome_iff_exists, memRead_isSome, decide_eq_true h]

theorem viewRead?_of_admitted (hd : activeDesc? k s = some d) (h : readAdmitted d p = true) :
    viewRead? k p s = memRead d.view.space (d.view.offset.toNat + p) s := by
  simp [viewRead?, hd, h]

theorem viewRead?_of_not_admitted (h : ∀ d, activeDesc? k s = some d → readAdmitted d p = false) :
    viewRead? k p s = none := by
  unfold viewRead?
  cases hd : activeDesc? k s with
  | none => rfl
  | some d => simp [h d hd]

theorem serveAccess_read_some {b : Byte} (h : viewRead? k p s = some b) :
    serveAccess (.read k p) s = { s with engReadData := s.engReadData ++ [b] } := by
  simp [serveAccess, viewRead, h]

theorem serveAccess_read_none (h : viewRead? k p s = none) :
    serveAccess (.read k p) s =
      { s with engReadData := s.engReadData ++ [Config.unadmittedRead s.freeDraws], freeDraws := s.freeDraws + 1 } := by
  simp [serveAccess, viewRead, h]

end

/-- Settles O33, by whether the read is admitted. -/
theorem engineReadAnswersViewByte : Obligations.EngineReadAnswersViewByte := by
  unfold Obligations.EngineReadAnswersViewByte
  intro k p s
  constructor
  · intro d hd hw hp _ hbound
    obtain ⟨b, hb⟩ := exists_memRead (s := s) (sp := d.view.space) (i := d.view.offset.toNat + p) (by omega)
    have hadmitted : readAdmitted d p = true := by simp [readAdmitted, hw, hp]
    exact ⟨b, hb, serveAccess_read_some ((viewRead?_of_admitted hd hadmitted).trans hb)⟩
  · intro h
    refine ⟨_, serveAccess_read_none (viewRead?_of_not_admitted fun d hd => ?_)⟩
    obtain hr | hp := h d hd
    · simp [readAdmitted, hr]
    · simp [readAdmitted, Nat.not_lt.mpr hp]

/-! ### The engine's writes (R70, R71) -/

section
variable {k : Nat} {s : State} {d : Descriptor}

/-- An admitted write into a view in bounds stores its byte. -/
theorem serveAccess_write {p : Nat} (b : Byte) (hd : activeDesc? k s = some d) (h : writeAdmitted d p = true)
    (hi : d.view.offset.toNat + p < s.params.capacity.toNat) :
    serveAccess (.write k p b) s = { s with rxBuf := s.rxBuf.store (d.view.offset.toNat + p) b } := by
  simp [serveAccess, viewWrite, hd, h, memWrite, hi]

/-- After the engine's writes of `bytes` from position `p` of a READ view on, they stand there, and every other byte of RX
is as before. -/
theorem memRead_serve_fillView {p : Nat} {bytes : List Byte} (hd : activeDesc? k s = some d) (hr : d.flags = .read)
    (hrx : d.view.space = .rx) (hbound : d.view.offset.toNat + d.length.toNat ≤ s.params.capacity.toNat)
    (hlen : p + bytes.length ≤ d.length.toNat) (i : Nat) :
    memRead .rx i (serveAccesses (fillView k p bytes) s) =
      if d.view.offset.toNat + p ≤ i ∧ i < d.view.offset.toNat + p + bytes.length then
        bytes[i - (d.view.offset.toNat + p)]?
      else memRead .rx i s := by
  induction bytes generalizing s p with
  | nil => rw [if_neg (by simp)]; rfl
  | cons b bytes ih =>
    simp only [List.length_cons] at hlen ⊢
    have hi : d.view.offset.toNat + p < s.params.capacity.toNat := by omega
    have hadmitted : writeAdmitted d p = true := by simp [writeAdmitted, hr, hrx]; omega
    simp only [fillView, serveAccesses, serveAccess_write b hd hadmitted hi]
    rw [ih (s := { s with rxBuf := s.rxBuf.store (d.view.offset.toNat + p) b }) hd hbound (by omega),
      memRead_after_rx_store _ _ _ _ _ hi]
    obtain hlt | rfl | hgt := Nat.lt_trichotomy i (d.view.offset.toNat + p)
    · rw [if_neg (by omega), if_neg (by omega), if_neg (by omega)]
    · simp
    · have hsub : i - (d.view.offset.toNat + p) = i - (d.view.offset.toNat + (p + 1)) + 1 := by omega
      rw [if_neg (c := _ ∧ i = _) (by omega), hsub, List.getElem?_cons_succ]
      exact if_congr (by omega) rfl rfl

end

/-- Settles O34: the writes of a full answer cover the view. -/
theorem answeredBytesReplaceView : Obligations.AnsweredBytesReplaceView := by
  unfold Obligations.AnsweredBytesReplaceView
  intro s k d bytes hd hr hrx hbound hlen p hp
  rw [memRead_serve_fillView hd hr hrx hbound (by omega), if_pos (by omega)]
  simp

/-! ### Runs of commands -/

theorem execSeq_cons_next {i : Instr} {s t : State} (h : exec i s = .next t) (is : List Instr) :
    execSeq (i :: is) s = execSeq is t := by
  simp [execSeq, h]

theorem execSeq_append_next {is : List Instr} {s t : State} (h : execSeq is s = .next t) (js : List Instr) :
    execSeq (is ++ js) s = execSeq js t := by
  induction is generalizing s with
  | nil => cases h; rfl
  | cons i is ih =>
    cases e : exec i s with
    | next u =>
      rw [execSeq_cons_next e] at h
      rw [List.cons_append, execSeq_cons_next e, ih h]
    | fault f => simp [execSeq, e] at h
    | refused r => simp [execSeq, e] at h

/-! ### Staging a write transaction: BEGINTX and WRITEs -/

/-- While `fault` is zero a command is its body on the accepted state (R101), as an equation of what it does. -/
theorem command_eq_of_noFault {s : State} (body : State → Result) (hf : s.fault = 0) :
    command body s = body (accept s) := if_pos hf

/-- WRITE with room in the buffer and in the length (R133). -/
theorem exec_write_room {s : State} (b : Byte) (hf : s.fault = 0) (hroom : s.txBufIdx.toNat < s.params.capacity.toNat)
    (hlen : s.desc0.length ≠ 255) :
    exec (.write b) s = .next (respond 0 false
      { accept s with
        txBuf := s.txBuf.store s.txBufIdx.toNat b
        txBufIdx := s.txBufIdx + 1
        desc0 := { s.desc0 with length := s.desc0.length + 1 } }) := by
  have hfull : txFull (accept s) = false := by
    simpa [txFull] using fun e => Nat.ne_of_lt hroom (congrArg BitVec.toNat e)
  rw [exec, execWrite, command_eq_of_noFault _ hf, if_neg (by simp [hfull]), accept_desc0, if_neg hlen]
  simp [stageByte, memWrite, hroom]

/-- `t` is `s` after BEGINTX on an empty transmit buffer and a WRITE of each of `bs`: they stand at the head of TX, and
the cursor and the length of `desc[0]` are their number (R131, R133). -/
structure Staged (addr : DevAddr) (s : State) (bs : List Byte) (t : State) : Prop where
  eq : t = { s with
    txBuf := t.txBuf
    txBufIdx := BitVec.ofNat 8 bs.length
    desc0 := { address := addr, view := { space := .tx, offset := 0 }, length := BitVec.ofNat 8 bs.length
               xferred := s.desc0.xferred, flags := .write }
    busy := false, resp := some 0x0000#16, engGo := none, engReadData := [] }
  bytes : ∀ p, p < bs.length → memRead .tx p t = bs[p]?

section
variable {addr : DevAddr} {s t : State} {bs : List Byte}

theorem beginTx_staged (addr : DevAddr) (hf : s.fault = 0) (hi : s.txBufIdx = 0) :
    ∃ t, exec (.beginTx addr) s = .next t ∧ Staged addr s [] t := by
  refine ⟨_, by rw [exec, execBeginTx, command_eq_of_noFault _ hf], ?_, nofun⟩
  simp [beginTxDesc, txView, hi, respWord_value, complete, accept]

theorem Staged.params (h : Staged addr s bs t) : t.params = s.params := by rw [h.eq]
theorem Staged.fault (h : Staged addr s bs t) : t.fault = s.fault := by rw [h.eq]
theorem Staged.txBufOverflow (h : Staged addr s bs t) : t.txBufOverflow = s.txBufOverflow := by rw [h.eq]
theorem Staged.descCount (h : Staged addr s bs t) : t.descCount = s.descCount := by rw [h.eq]
theorem Staged.engineAnswers (h : Staged addr s bs t) : t.engineAnswers = s.engineAnswers := by rw [h.eq]
theorem Staged.txBufIdx (h : Staged addr s bs t) : t.txBufIdx = BitVec.ofNat 8 bs.length := by rw [h.eq]
theorem Staged.desc0 (h : Staged addr s bs t) :
    t.desc0 = { address := addr, view := { space := .tx, offset := 0 }, length := BitVec.ofNat 8 bs.length
                xferred := s.desc0.xferred, flags := .write } := by rw [h.eq]

/-- A number of bytes that fits the buffer fits a length register (R8, R9). -/
theorem toNat_length_of_le_capacity {p : Params} (hle : bs.length ≤ p.capacity.toNat) :
    (BitVec.ofNat 8 bs.length).toNat = bs.length :=
  Nat.mod_eq_of_lt (Nat.lt_of_le_of_lt hle p.capacity.isLt)

theorem Staged.write (h : Staged addr s bs t) (b : Byte) (hf : s.fault = 0)
    (hroom : bs.length < s.params.capacity.toNat) :
    ∃ u, exec (.write b) t = .next u ∧ Staged addr s (bs ++ [b]) u := by
  have hlt := s.params.capacity.isLt
  have hn := toNat_length_of_le_capacity (Nat.le_of_lt hroom)
  have hidx : t.txBufIdx.toNat = bs.length := by rw [h.txBufIdx, hn]
  have hlen : t.desc0.length ≠ 255 := by
    intro e
    have e := congrArg BitVec.toNat e
    simp [h.desc0] at e
    omega
  refine ⟨_, exec_write_room b (h.fault.trans hf) (by rw [hidx, h.params]; exact hroom) hlen, ?_, fun p hp => ?_⟩
  · rw [h.desc0, h.txBufIdx, h.eq]
    simp [respWord_value, complete, accept, BitVec.ofNat_add]
  · have hstore := memRead_after_tx_store .tx p bs.length b t (by rw [h.params]; exact hroom)
    rw [hidx]
    refine hstore.trans ?_
    rw [List.length_append, List.length_singleton] at hp
    by_cases hpe : p = bs.length
    · simp [hpe]
    · rw [if_neg (by simp [hpe]), h.bytes p (by omega), List.getElem?_append_left (by omega)]

theorem Staged.writes (h : Staged addr s bs t) (cs : List Byte) (hf : s.fault = 0)
    (hroom : bs.length + cs.length ≤ s.params.capacity.toNat) :
    ∃ u, execSeq (cs.map .write) t = .next u ∧ Staged addr s (bs ++ cs) u := by
  induction cs generalizing bs t with
  | nil => exact ⟨t, rfl, by simpa using h⟩
  | cons c cs ih =>
    rw [List.length_cons] at hroom
    obtain ⟨v, hv, hs⟩ := h.write c hf (by omega)
    obtain ⟨u, hu, hs⟩ := ih hs (by simp; omega)
    exact ⟨u, (execSeq_cons_next hv _).trans hu, by simpa using hs⟩

/-- BEGINTX on an empty transmit buffer and at most `CAPACITY` WRITEs stage the bytes. -/
theorem execSeq_staged (addr : DevAddr) (bs : List Byte) (hf : s.fault = 0) (hi : s.txBufIdx = 0)
    (hle : bs.length ≤ s.params.capacity.toNat) :
    ∃ t, execSeq (.beginTx addr :: bs.map .write) s = .next t ∧ Staged addr s bs t := by
  obtain ⟨v, hv, hs⟩ := beginTx_staged addr hf hi
  obtain ⟨t, ht, hs⟩ := hs.writes bs hf (by simpa using hle)
  exact ⟨t, (execSeq_cons_next hv _).trans ht, hs⟩

/-- The view of the staged descriptor lies in the transmit buffer. -/
theorem Staged.view_inBounds (h : Staged addr s bs t) (hle : bs.length ≤ s.params.capacity.toNat) :
    t.desc0.view.offset.toNat + t.desc0.length.toNat ≤ bound t.params t.desc0.view.space := by
  simpa [h.desc0, h.params, toNat_length_of_le_capacity hle] using hle

/-- The view of the staged descriptor holds the bytes written, in order. -/
theorem Staged.viewData_eq (h : Staged addr s bs t) (hle : bs.length ≤ s.params.capacity.toNat) :
    viewData t.desc0 t = bs := by
  obtain ⟨hlen, hget⟩ := viewData_spec t.desc0 t (h.view_inBounds hle)
  have hn : t.desc0.length.toNat = bs.length := by rw [h.desc0]; exact toNat_length_of_le_capacity hle
  refine List.ext_getElem? fun p => ?_
  by_cases hp : p < bs.length
  · rw [hget p (hn ▸ hp), ← h.bytes p hp, h.desc0]
    simp
  · rw [List.getElem?_eq_none (by omega), List.getElem?_eq_none (by omega)]

/-- What the engine is shown of the staged descriptor (R65, R183). -/
theorem Staged.engineDesc_eq (h : Staged addr s bs t) (hle : bs.length ≤ s.params.capacity.toNat) :
    engineDesc t t.desc0 = { address := addr, flags := .write, length := BitVec.ofNat 8 bs.length, data := bs } := by
  have hw : t.desc0.flags = .write := by rw [h.desc0]
  rw [engineDesc, if_pos hw, h.viewData_eq hle, h.desc0]

end

/-! ### ENDTX with an engine that completes -/

/-- The state a dispatch of `s` that completes returns in: the engine was started, served and its counts latched. -/
def served (stop : Bool) (a : EngineAnswer) (rest : List EngineAnswer) (d : EngineDone) (s : State) : State :=
  latchXferred d (serveAccesses a.accesses { startEngine stop s with engineAnswers := rest })

section
variable {s : State} {a : EngineAnswer} {rest : List EngineAnswer} {d : EngineDone}

/-- `served` changes nothing but bytes of RX, the counts and the engine's ports and answers. -/
theorem served_eq (stop : Bool) (a : EngineAnswer) (rest : List EngineAnswer) (d : EngineDone) (s : State) :
    served stop a rest d s = { startEngine stop s with
      engineAnswers := rest
      rxBuf := (served stop a rest d s).rxBuf
      engReadData := (served stop a rest d s).engReadData
      freeDraws := (served stop a rest d s).freeDraws
      desc0 := (served stop a rest d s).desc0
      desc1 := (served stop a rest d s).desc1 } := by
  unfold served
  rw [latchXferred_eq, serveAccesses_touched a.accesses { startEngine stop s with engineAnswers := rest }]

/-- ENDTX without an overflow, when the engine completes and keeps its contract (R136, R180). -/
theorem exec_endTx_returns (stop : Bool) (hf : s.fault = 0) (hov : s.txBufOverflow = false) (hc : s.descCount = .one)
    (hv : viewOk s.params s.desc0 = true) (ha : s.engineAnswers = a :: rest) (hd : a.done = some d)
    (hx : d.xferred0.toNat ≤ s.desc0.length.toNat) :
    exec (.endTx stop) s = .next (respond d.status false (emptyTx (served stop a rest d (accept s)))) := by
  have hviews : (activeDescs (accept s)).all (viewOk (accept s).params) = true := by simp [activeDescs, hc, hv]
  have hcounts : (activeDescs (latchXferred d (accept s))).all countOk = true := by
    simp [latchXferred_eq, activeDescs, hc, countOk, hx]
  rw [exec, execEndTx, command_eq_of_noFault _ hf]
  simp [hov, dispatch_returns stop hviews ha hd hcounts, Dispatched.andThen, served]

end

/-- Settles O45: the bytes are staged, and the staged descriptor's view is what ENDTX hands to the engine. -/
theorem writeTransactionReachesEngine : Obligations.WriteTransactionReachesEngine := by
  unfold Obligations.WriteTransactionReachesEngine
  intro addr bs stop s a rest d hf hi hov hc hle ha hd hx
  obtain ⟨u, hu, h⟩ := execSeq_staged addr bs hf hi hle
  have hview : viewOk u.params u.desc0 = true := by
    simpa [viewOk, h.desc0] using h.view_inBounds hle
  have hcount : d.xferred0.toNat ≤ u.desc0.length.toNat := by
    rw [h.desc0]; exact hx.trans_eq (toNat_length_of_le_capacity hle).symm
  have hend := exec_endTx_returns stop (h.fault.trans hf) (h.txBufOverflow.trans hov) (h.descCount.trans hc) hview
    (h.engineAnswers.trans ha) hd hcount
  have hdesc : engineDesc (accept u) u.desc0 =
      { address := addr, flags := .write, length := BitVec.ofNat 8 bs.length, data := bs } := h.engineDesc_eq hle
  have hrun := (execSeq_append_next hu [.endTx stop]).trans (execSeq_cons_next hend [])
  refine ⟨_, hrun, ?_⟩
  rw [served_eq]
  simp [activeDescs, h.descCount, hc, hdesc, h.fault, hf, respWord_value]

end Sys2Proof.Machine

/-! The family of the encoding: the decoder and the encoder as inverses, what a taken word's response can be, and the
assembler. -/

namespace Sys2Proof

/-! ### Decoding and encoding are inverse -/

/-- A must-be-zero test that passes hands on its command (R95). -/
theorem ifUnusedZero_ok_iff {op : BitVec 4} {unusedZero : Bool} {i j : Instr} :
    ifUnusedZero op unusedZero i = .ok j ↔ unusedZero = true ∧ i = j := by
  cases unusedZero <;> simp [ifUnusedZero]

theorem decodeFields_encodeFields (i : Instr) : decodeFields (encodeFields i) = .ok i := by
  cases i with
  | endTx stop => cases stop <;> rfl
  | _ => rfl

/-- The one-bit field S is the word form of its own test (R94). -/
theorem ofBool_beq_one (s : BitVec 1) : BitVec.ofBool (s == 1#1) = s := by
  revert s
  decide

/-- Fields that decode are the fields of their command: each unused field is zero, and each used one is an operand. -/
theorem encodeFields_of_decodeFields {f : Fields} {i : Instr} (h : decodeFields f = .ok i) : encodeFields i = f := by
  obtain ⟨op, num, data, s, z, addr⟩ := f
  have hop {n : Nat} (e : op.toNat = n) : BitVec.ofNat 4 n = op := by rw [← e, BitVec.ofNat_toNat, BitVec.setWidth_eq]
  unfold decodeFields at h
  split at h
  case h_9 => cases h
  all_goals
    next e =>
    obtain ⟨hzero, rfl⟩ := ifUnusedZero_ok_iff.mp h
    simp only [Bool.and_eq_true, beq_iff_eq] at hzero
    simp [encodeFields, hzero, ← hop e, ofBool_beq_one]

/-- The decoder reads exactly the words of the commands (R92, R94, R95). -/
theorem decode_ok_iff {w : CmdWord} {i : Instr} : decode w = .ok i ↔ encode i = w := by
  constructor
  · intro h
    rw [encode, encodeFields_of_decodeFields h, pack_unpack]
  · rintro rfl
    rw [decode, encode, unpack_pack, decodeFields_encodeFields]

/-- A word that no command has is refused, and no other. -/
theorem decode_error_iff {w : CmdWord} : (∃ e, decode w = .error e) ↔ ∀ i, encode i ≠ w := by
  cases h : decode w with
  | ok i => simpa using ⟨i, decode_ok_iff.mp h⟩
  | error e =>
    have hno (i : Instr) : encode i ≠ w := fun hi => by simp [decode_ok_iff.mpr hi] at h
    simpa using hno

/-- Settles O4: every command is what its own word decodes to. -/
theorem decodeOfEncodeIsIdentity : Obligations.DecodeOfEncodeIsIdentity := by
  unfold Obligations.DecodeOfEncodeIsIdentity
  exact fun _ _ => decode_ok_iff.mpr rfl

/-- Settles O5: a word that decodes is the word of its command. -/
theorem encodeOfDecodeIsIdentity : Obligations.EncodeOfDecodeIsIdentity := by
  unfold Obligations.EncodeOfDecodeIsIdentity
  exact fun _ _ => decode_ok_iff.mp

/-- Settles O1, by running the decoder on each of the closed words. -/
theorem specWordsDecodeAsWritten : Obligations.SpecWordsDecodeAsWritten := by
  unfold Obligations.SpecWordsDecodeAsWritten
  decide

/-! ### The rows of the opcode map -/

/-- The word of a command meets the match of its row under the row's mask (R94). -/
theorem encode_masked (i : Instr) : encode i &&& i.opcode.maskBits = i.opcode.matchBits := by
  cases i with
  | begin addr => exact (Laws.EncodeRow.begin addr).2
  | beginTx addr => exact (Laws.EncodeRow.beginTx addr).2
  | write data => exact (Laws.EncodeRow.write data).2
  | endTx sendStop => exact (Laws.EncodeRow.endTx sendStop).2
  | req addr num => exact (Laws.EncodeRow.req addr num).2
  | reqReg addr reg num => exact (Laws.EncodeRow.reqReg addr reg num).2
  | avail => exact Laws.EncodeRow.avail.2
  | read => exact Laws.EncodeRow.read.2

/-- The command of a row whose operands stand in these fields (R94). -/
def Opcode.command : Opcode → Fields → Instr
  | .begin, f => .begin f.addr
  | .beginTx, f => .beginTx f.addr
  | .write, f => .write f.data
  | .endTx, f => .endTx (f.s == 1)
  | .req, f => .req f.addr f.num
  | .reqReg, f => .reqReg f.addr f.data f.num
  | .avail, _ => .avail
  | .read, _ => .read

theorem opcode_command (o : Opcode) (f : Fields) : (o.command f).opcode = o := by cases o <;> rfl

/-! A mask of ones keeps the field it covers. -/

theorem op_and_ones (x : BitVec 4) : x &&& 15#4 = x := BitVec.and_allOnes
theorem byte_and_ones (x : Byte) : x &&& 255#8 = x := BitVec.and_allOnes
theorem bit_and_ones (x : BitVec 1) : x &&& 1#1 = x := BitVec.and_allOnes
theorem addr_and_ones (x : DevAddr) : x &&& 1023#10 = x := BitVec.and_allOnes

/-- A word that meets a row under its mask is the row's command: each unused field is under ones, so it is zero (R94). -/
theorem encode_command_of_masked {w : CmdWord} {o : Opcode} (h : w &&& o.maskBits = o.matchBits) :
    encode (o.command (unpack w)) = w := by
  obtain ⟨hop, hnum, hdata, hs, hz, haddr⟩ := (masked_iff w o).mp h
  suffices hf : encodeFields (o.command (unpack w)) = unpack w by rw [encode, hf, pack_unpack]
  generalize unpack w = f at *
  obtain ⟨op, num, data, s, z, addr⟩ := f
  cases o
  all_goals
    simp [Opcode.maskFields, Opcode.matchFields, op_and_ones, byte_and_ones, bit_and_ones, addr_and_ones]
      at hop hnum hdata hs hz haddr
    simp [Opcode.command, encodeFields, ofBool_beq_one, *]

/-- Settles O2: a row's words are those of its commands, and the decoder reads exactly these. -/
theorem wordEncodesRowExactlyWhenMasked : Obligations.WordEncodesRowExactlyWhenMasked := by
  unfold Obligations.WordEncodesRowExactlyWhenMasked
  intro w o
  constructor
  · rintro ⟨i, hi, rfl⟩
    rw [← decode_ok_iff.mp hi]
    exact encode_masked i
  · exact fun h => ⟨o.command (unpack w), decode_ok_iff.mpr (encode_command_of_masked h), opcode_command o _⟩

/-- The row that `OP` selects, if it is not reserved (R94, R96). -/
def Opcode.ofBits? (op : BitVec 4) : Option Opcode :=
  match op.toNat with
  | 1 => some .begin
  | 2 => some .beginTx
  | 3 => some .write
  | 4 => some .endTx
  | 5 => some .req
  | 6 => some .reqReg
  | 7 => some .avail
  | 8 => some .read
  | _ => none

theorem Opcode.ofBits?_eq_none_iff : ∀ op : BitVec 4, Opcode.ofBits? op = none ↔ op = 0 ∨ 9 ≤ op.toNat := by decide

theorem Opcode.ofBits?_eq_some_iff (op : BitVec 4) (o : Opcode) :
    Opcode.ofBits? op = some o ↔ op = o.matchFields.op := by
  revert op
  cases o <;> decide

/-- The top nibble of a word selects a row exactly when it is the row's opcode. -/
theorem selects_iff (w : CmdWord) (o : Opcode) :
    w &&& 0xF0000000#32 = o.matchBits ↔ Opcode.ofBits? (unpack w).op = some o := by
  have hmask : 0xF0000000#32 = pack { op := 15, num := 0, data := 0, s := 0, z := 0, addr := 0 } := by decide
  have hw : w &&& 0xF0000000#32 = pack { op := (unpack w).op, num := 0, data := 0, s := 0, z := 0, addr := 0 } := by
    conv_lhs => rw [← pack_unpack w, hmask, pack_and_pack]
    simp [op_and_ones]
  rw [hw, Opcode.matchBits_eq, Opcode.ofBits?_eq_some_iff]
  constructor
  · intro h
    simpa using congrArg Fields.op (pack_inj h)
  · intro h
    rw [h]
    rfl

/-- A command's word selects the command's row. -/
theorem ofBits?_encode (i : Instr) : Opcode.ofBits? (unpack (encode i)).op = some i.opcode := by
  rw [encode, unpack_pack]
  cases i <;> rfl

/-- Settles O3: a word is legal when it is its row's command, and `OP` selects the row. -/
theorem illegalWordsAreReservedOrUnusedNonzero : Obligations.IllegalWordsAreReservedOrUnusedNonzero := by
  unfold Obligations.IllegalWordsAreReservedOrUnusedNonzero
  intro w
  have hop : w.extractLsb' 28 4 = (unpack w).op := rfl
  simp only [hop, ← Opcode.ofBits?_eq_none_iff, selects_iff, decode_error_iff]
  constructor
  · intro hno
    cases ho : Opcode.ofBits? (unpack w).op with
    | none => exact .inl rfl
    | some o => exact .inr ⟨o, rfl, fun hm => hno _ (encode_command_of_masked hm)⟩
  · rintro (hnone | ⟨o, ho, hmiss⟩) i rfl
    · simp [ofBits?_encode] at hnone
    · obtain rfl := Option.some.inj ((ofBits?_encode i).symm.trans ho)
      exact hmiss (encode_masked i)

end Sys2Proof

namespace Sys2Proof.Machine

open Sys2Proof

/-! ### Taking a word, and the response it gets -/

/-- A ready sequencer takes the word presented next and runs it (R91). -/
theorem step_of_word {s : State} {w : CmdWord} {rest : List HostInput} (hb : s.busy = false)
    (hi : s.hostInputs = .command w :: rest) : step s = runWord w { s with hostInputs := rest } := by
  simp [step, takeInput, hi, cmdReady, hb]

/-- Settles O8: the word is taken, and its command runs. -/
theorem stepExecutesTakenCommand : Obligations.StepExecutesTakenCommand := by
  unfold Obligations.StepExecutesTakenCommand
  intro s w rest i hb hi hd
  rw [step_of_word hb hi, runWord, hd]

/-- How a command run in `s` ends: with a value (as data only for READ), with the fault response of a faulted machine, or,
if it dispatches, hung without a response (R97, R100, R189). No host action is consumed. -/
inductive CommandEnds (i : Instr) (s : State) : State → Prop
  | value {v : Byte} {dv : Bool} {u : State} (hin : u.hostInputs = s.hostInputs) (hread : dv = true → i = .read) :
      CommandEnds i s (respond v dv u)
  | faulted {u : State} (hin : u.hostInputs = s.hostInputs) (hf : u.fault ≠ 0) : CommandEnds i s (complete 0x4000#16 u)
  | hung {u : State} (hin : u.hostInputs = s.hostInputs) (hf : s.fault = 0) (hb : u.busy = true) (hr : u.resp = none)
      (hd : i.opcode = .endTx ∨ i.opcode = .req ∨ i.opcode = .reqReg) : CommandEnds i s u

section
variable {i : Instr} {s a u t : State}

/-- A raised fault answers with the fault response, and its bit stays set (R202). -/
theorem ends_raiseFault (c : Cause) (hin : u.hostInputs = s.hostInputs) : CommandEnds i s (raiseFault c u) := by
  have hbit : u.fault ||| c.bit ≠ 0 := fun h => Cause.bit_ne_zero c (BitVec.or_eq_zero_iff.mp h).2
  exact .faulted (u := { u with fault := u.fault ||| c.bit }) hin hbit

theorem ends_hung (hf : s.fault = 0) (hd : i.opcode = .endTx ∨ i.opcode = .req ∨ i.opcode = .reqReg)
    (hu : DispatchFrame a u) (hin : a.hostInputs = s.hostInputs) (hb : a.busy = true) (hr : a.resp = none) :
    CommandEnds i s u := by
  refine .hung ?_ hf ?_ ?_ hd <;> rw [hu.eq]
  exacts [hin, hb, hr]

theorem ends_endTx {sendStop : Bool} (hf : s.fault = 0) (e : execEndTx sendStop s = .next t) :
    CommandEnds (.endTx sendStop) s t := by
  obtain rfl | ⟨u, hu, h⟩ := execEndTx_cases hf e
  · exact .value rfl nofun
  · have hin : u.hostInputs = s.hostInputs := by rw [hu.eq]; rfl
    obtain ⟨st, rfl⟩ | rfl | ⟨c, rfl⟩ := h
    · exact .value hin nofun
    · exact ends_hung hf (.inl rfl) hu rfl rfl rfl
    · exact ends_raiseFault c hin

/-- A request from its staged state `a`: no closing write touches the host's actions. -/
theorem ends_request {count : State → Byte} {closing : State → State} (hf : s.fault = 0)
    (hd : i.opcode = .req ∨ i.opcode = .reqReg) (hclose : ∀ v, (closing v).hostInputs = v.hostInputs)
    (h : RequestEnds a count closing t) (hin : a.hostInputs = s.hostInputs) (hb : a.busy = true) (hr : a.resp = none) :
    CommandEnds i s t := by
  obtain ⟨u, hu, h⟩ := h
  have hu_in : u.hostInputs = s.hostInputs := by rw [hu.eq]; exact hin
  obtain ⟨-, rfl⟩ | rfl | ⟨c, rfl⟩ := h
  · exact .value ((hclose _).trans hu_in) nofun
  · exact ends_hung hf (.inr hd) hu hin hb hr
  · exact ends_raiseFault c hu_in

/-- Every command that goes on ends in one of the three ways. -/
theorem exec_ends (e : exec i s = .next t) : CommandEnds i s t := by
  by_cases hf : s.fault = 0
  · cases i with
    | begin addr => rw [execBegin_next hf e]; exact .value rfl nofun
    | beginTx addr => rw [execBeginTx_next hf e]; exact .value rfl nofun
    | write b =>
      obtain ⟨-, rfl⟩ | ⟨-, -, rfl⟩ | ⟨-, -, -, rfl⟩ := execWrite_cases hf e
      · exact .value rfl nofun
      · exact ends_raiseFault .len rfl
      · exact .value rfl nofun
    | endTx sendStop => exact ends_endTx hf e
    | req addr num => exact ends_request hf (.inl rfl) closeReq_hostInputs (execReq_cases hf e) rfl rfl rfl
    | reqReg addr reg num =>
      exact ends_request hf (.inr rfl) closeReqReg_hostInputs (execReqReg_cases hf e) rfl rfl rfl
    | avail => rw [(execAvail_next hf e).2]; exact .value rfl nofun
    | read =>
      obtain ⟨-, rfl⟩ | ⟨-, v, -, ⟨-, rfl⟩ | ⟨-, rfl⟩⟩ := execRead_cases hf e <;> exact .value rfl fun _ => rfl
  · rw [exec_of_fault hf e]
    exact .faulted rfl hf

end

/-- Settles O14: an illegal word is answered at once, and a command ends in one of the three ways. -/
theorem takenCommandRespondsOnceOrHangs : Obligations.TakenCommandRespondsOnceOrHangs := by
  unfold Obligations.TakenCommandRespondsOnceOrHangs
  intro s t w rest hb hi e
  rw [step_of_word hb hi] at e
  obtain ⟨-, rfl⟩ | ⟨i, hd, e⟩ := runWord_cases e
  · exact ⟨rfl, .inl ⟨rfl, nofun⟩⟩
  · cases exec_ends e with
    | value hin => exact ⟨hin, .inl ⟨rfl, nofun⟩⟩
    | faulted hin => exact ⟨hin, .inl ⟨rfl, nofun⟩⟩
    | hung hin hf hbusy hr hop => exact ⟨hin, .inr ⟨hbusy, hr, hf, i, hd, hop⟩⟩

/-- The fields of the word that carries a value (R97). -/
theorem respWord_value_fields (dv : Bool) (v : Byte) :
    (respWord false false dv v).extractLsb' 15 1 = 0 ∧ (respWord false false dv v).extractLsb' 9 5 = 0 ∧
    (respWord false false dv v).extractLsb' 8 1 = BitVec.ofBool dv ∧
    (respWord false false dv v).extractLsb' 14 1 = 0 := by
  have hword : respWord false false dv v = (0#7 ++ BitVec.ofBool dv) ++ v := by
    cases dv with
    | false => exact respWord_value v
    | true => exact respWord_data v
  rw [hword]
  refine ⟨?_, ?_, ?_, ?_⟩ <;> rw [BitVec.extractLsb'_append_eq_of_le (by decide)] <;> cases dv <;> rfl

/-- Settles O15, by the word each way to end leaves in the response port. -/
theorem responseBitsFollowLayout : Obligations.ResponseBitsFollowLayout := by
  unfold Obligations.ResponseBitsFollowLayout
  intro i s t r e hr
  cases exec_ends e with
  | @value v dv u hin hread =>
    obtain rfl := Option.some.inj hr
    obtain ⟨hill, hzero, hdv, hflt⟩ := respWord_value_fields dv v
    refine ⟨hill, hzero, fun h => hread ?_, fun h => ?_⟩
    · rw [hdv] at h
      exact (BitVec.ofBool_eq_iff_eq (b' := true)).mp h
    · rw [hflt] at h; exact absurd h (by decide)
  | @faulted u hin hf =>
    obtain rfl := Option.some.inj hr
    exact ⟨by decide, by decide, fun h => absurd h (by decide), fun _ => ⟨rfl, hf⟩⟩
  | hung hin hf hb hnone => exact absurd (hr.symm.trans hnone) nofun

/-! ### The assembler -/

/-- A count above 255 is written as 255 (R105). -/
theorem narrowCount_toNat (n : Int) : (narrowCount n).toNat = min n.toNat 255 := by
  rw [narrowCount, BitVec.toNat_ofNat]
  omega

/-- Settles O6: no capacity is above 255. -/
theorem countNarrowingIsExact : Obligations.CountNarrowingIsExact := by
  unfold Obligations.CountNarrowingIsExact
  intro p n _
  have hcap := p.capacity.isLt
  rw [clampNum_toNat, narrowCount_toNat]
  omega

theorem assemble_of_wf {l : AsmLine} (h : l.wf = true) : assemble l = some (AsmLine.expand l) := if_pos h

theorem assemble_of_not_wf {l : AsmLine} (h : l.wf = false) : assemble l = none := by simp [assemble, h]

theorem asmByteOk_toNat (b : Byte) : asmByteOk b.toNat = true := by
  have hb := b.isLt
  simp only [asmByteOk, Bool.and_eq_true, decide_eq_true_eq]
  omega

theorem asmByteOk_out {b : Int} (h : b < 0 ∨ 255 < b) : asmByteOk b = false := by
  simp only [asmByteOk, Bool.and_eq_false_iff, decide_eq_false_iff_not]
  omega

theorem asmAddrOk_out {a : Int} (h : a < 0 ∨ 1023 < a) : asmAddrOk a = false := by
  simp only [asmAddrOk, Bool.and_eq_false_iff, decide_eq_false_iff_not]
  omega

theorem asmCountOk_out {n : Int} (h : n < 0) : asmCountOk n = false := by simpa [asmCountOk] using h

/-- WRITEN of bytes is one WRITE for each of them (R108). -/
theorem assemble_writeN (bs : List Byte) :
    assemble (.writeN (bs.map fun b => (b.toNat : Int))) = some (bs.map .write) := by
  have hwf : (AsmLine.writeN (bs.map fun b => (b.toNat : Int))).wf = true := by
    simp [AsmLine.wf, asmByteOk_toNat]
  rw [assemble_of_wf hwf]
  simp [AsmLine.expand, Function.comp_def]

/-- WRITEZ of nonzero bytes is one WRITE for each of them, and a zero ends the text (R109). -/
theorem expand_writeZ {bs : List Byte} (h : ∀ b ∈ bs, b ≠ 0) (rest : List Byte) :
    AsmLine.expand (.writeZ (bs ++ 0 :: rest)) = bs.map .write ∧ AsmLine.expand (.writeZ bs) = bs.map .write := by
  have hall : ∀ b ∈ bs, (b != 0) = true := fun b hb => bne_iff_ne.mpr (h b hb)
  have hzero : (bs ++ 0 :: rest).takeWhile (fun c => c != 0) = bs := by
    rw [List.takeWhile_append_of_pos hall]
    simp
  have hend : bs.takeWhile (fun c => c != 0) = bs := List.takeWhile_eq_self_iff.mpr hall
  exact ⟨congrArg _ hzero, congrArg _ hend⟩

/-- Settles O7: what the two pseudo-instructions expand to, and the lines with an operand out of range. -/
theorem assemblerWritesExpandToSingleBytes : Obligations.AssemblerWritesExpandToSingleBytes := by
  unfold Obligations.AssemblerWritesExpandToSingleBytes
  refine ⟨fun bs => ⟨assemble_writeN bs, ?_⟩, fun bs rest h => ?_, fun a ha => ?_, fun b hb => ?_, fun n hn => ?_⟩
  · simp [asmResult]
  · obtain ⟨hzero, hend⟩ := expand_writeZ h rest
    exact ⟨congrArg some hzero, congrArg some hend, rfl⟩
  · have ho := asmAddrOk_out ha
    exact ⟨assemble_of_not_wf ho, assemble_of_not_wf ho, fun n => assemble_of_not_wf (by simp [AsmLine.wf, ho]),
      fun r n => assemble_of_not_wf (by simp [AsmLine.wf, ho])⟩
  · have ho := asmByteOk_out hb
    refine ⟨assemble_of_not_wf ho, fun a n => assemble_of_not_wf (by simp [AsmLine.wf, ho]), fun bs hmem => ?_⟩
    exact assemble_of_not_wf (List.all_eq_false.mpr ⟨b, hmem, by simp [ho]⟩)
  · have ho := asmCountOk_out hn
    exact ⟨fun a => assemble_of_not_wf (by simp [AsmLine.wf, ho]),
      fun a r => assemble_of_not_wf (by simp [AsmLine.wf, ho])⟩

end Sys2Proof.Machine

/-! The family of the initialisation: BEGIN's word, its effect, and that a second BEGIN changes nothing. -/

namespace Sys2Proof.Machine

open Sys2Proof

/-- The word of BEGIN is its opcode with the address beside it: each field of one is zero in the other (R94, R120). -/
theorem encode_begin (a : DevAddr) : encode (.begin a) = 0x10000000#32 ||| a.setWidth 32 := by
  have hmatch : 0x10000000#32 = pack Opcode.begin.matchFields := Opcode.matchBits_eq .begin
  rw [hmatch, addr_eq_pack, pack_or_pack]
  simp [encode, encodeFields, Opcode.matchFields]

/-- While `fault` is zero BEGIN latches the address and empties both cursors on the accepted state (R120). -/
theorem exec_begin {s : State} (a : DevAddr) (hf : s.fault = 0) :
    exec (.begin a) s = .next (respond 0 false (emptyRx (emptyTx { accept s with selfAddress := a }))) := by
  rw [exec, execBegin, command_eq_of_noFault _ hf]

/-- Settles O17: the word is the two packed fields, and the effect is BEGIN's four updates written out. -/
theorem beginEmptiesCursorsAndLatchesAddress : Obligations.BeginEmptiesCursorsAndLatchesAddress := by
  unfold Obligations.BeginEmptiesCursorsAndLatchesAddress
  intro a s hf
  refine ⟨encode_begin a, ?_⟩
  rw [exec_begin a hf, respond_eq, respWord_value]
  rfl

/-- Settles O18: BEGIN keeps `fault` at zero, and its updates on a state that already holds their values are that state. -/
theorem beginTwiceIsBeginOnce : Obligations.BeginTwiceIsBeginOnce := by
  unfold Obligations.BeginTwiceIsBeginOnce
  intro a s t hf h
  obtain rfl := execBegin_next hf h
  exact exec_begin a hf

end Sys2Proof.Machine

/-! The family of the transmission: BEGINTX, WRITE and ENDTX, and what the engine's status can reach. -/

namespace Sys2Proof.Machine

open Sys2Proof

/-! ### BEGINTX -/

/-- The word of BEGINTX is its opcode with the address beside it (R94, R131). -/
theorem encode_beginTx (a : DevAddr) : encode (.beginTx a) = 0x20000000#32 ||| a.setWidth 32 := by
  have hmatch : 0x20000000#32 = pack Opcode.beginTx.matchFields := Opcode.matchBits_eq .beginTx
  rw [hmatch, addr_eq_pack, pack_or_pack]
  simp [encode, encodeFields, Opcode.matchFields]

/-- While `fault` is zero BEGINTX binds `desc[0]` on the accepted state (R131). -/
theorem exec_beginTx {s : State} (a : DevAddr) (hf : s.fault = 0) :
    exec (.beginTx a) s = .next (respond 0 false { accept s with desc0 := beginTxDesc a (accept s) }) := by
  rw [exec, execBeginTx, command_eq_of_noFault _ hf]

/-- Settles O19: the word is the two packed fields, and the effect is BEGINTX's binding written out. -/
theorem beginTxBindsDescriptorAtCursor : Obligations.BeginTxBindsDescriptorAtCursor := by
  unfold Obligations.BeginTxBindsDescriptorAtCursor
  intro a s hf
  refine ⟨encode_beginTx a, ?_⟩
  rw [exec_beginTx a hf, respond_eq, respWord_value]
  rfl

/-! ### WRITE -/

/-- The word of WRITE is its opcode with the byte in `DATA` (R94, R133). -/
theorem encode_write (b : Byte) : encode (.write b) = 0x30000000#32 ||| (b.setWidth 32 <<< 12) := by
  have hmatch : 0x30000000#32 = pack Opcode.write.matchFields := Opcode.matchBits_eq .write
  rw [hmatch, data_eq_pack, pack_or_pack]
  simp [encode, encodeFields, Opcode.matchFields]

section
variable {s : State}

/-- WRITE on a full buffer drops the byte and sets the overflow flag, whatever the length is (R133, R134 (a)). -/
theorem exec_write_full (b : Byte) (hf : s.fault = 0) (hfull : s.txBufIdx = s.params.capacity) :
    exec (.write b) s = .next
      { s with txBufOverflow := true, busy := false, resp := some 0x0000#16, engGo := none, engReadData := [] } := by
  have hfull : txFull (accept s) = true := by simp [txFull, hfull]
  rw [exec, execWrite, command_eq_of_noFault _ hf, if_pos hfull, respond_eq, respWord_value]
  rfl

/-- WRITE with room in the buffer and none in the length raises LEN and does nothing else (R208). -/
theorem exec_write_len (b : Byte) (hf : s.fault = 0) (hne : s.txBufIdx ≠ s.params.capacity)
    (hlen : s.desc0.length = 255) :
    exec (.write b) s = .next
      { s with fault := 0b1000#4, busy := false, resp := some 0x4000#16, engGo := none, engReadData := [] } := by
  have hroom : ¬txFull (accept s) = true := by simpa [txFull] using hne
  have hlatch : s.fault ||| Cause.len.bit = 0b1000#4 := by rw [hf]; rfl
  rw [exec, execWrite, command_eq_of_noFault _ hf, if_neg hroom, accept_desc0, if_pos hlen, raiseFault, accept_fault,
    hlatch]
  rfl

end

/-- WRITE with room in the length stores its byte where TX has one at the cursor, and stops where it has none (R133, R60). -/
theorem stageByte_eq (b : Byte) (s : State) :
    stageByte b s =
      if s.txBufIdx.toNat < s.params.capacity.toNat then
        .next (respond 0 false
          { s with
            txBuf := s.txBuf.store s.txBufIdx.toNat b
            txBufIdx := s.txBufIdx + 1
            desc0 := { s.desc0 with length := s.desc0.length + 1 } })
      else .fault (.noSuchByte .tx s.txBufIdx.toNat) := by
  unfold stageByte memWrite
  rw [bound_tx]
  split_ifs <;> rfl

/-- A byte below a larger one grows by one without wrapping. -/
theorem toNat_add_one_of_lt {x c : Byte} (h : x.toNat < c.toNat) : (x + 1).toNat = x.toNat + 1 := by
  have := c.isLt
  exact BitVec.toNat_add_of_lt (by simp; omega)

/-- Settles O20, by the three arms of WRITE; a cursor at most `CAPACITY` and not equal to it leaves room. -/
theorem writeStagesDropsOrFaults : Obligations.WriteStagesDropsOrFaults := by
  unfold Obligations.WriteStagesDropsOrFaults
  intro b s hf hle
  refine ⟨encode_write b, exec_write_full b hf, exec_write_len b hf, fun hne hlen => ?_⟩
  have hroom : s.txBufIdx.toNat < s.params.capacity.toNat :=
    Nat.lt_of_le_of_ne hle fun e => hne (BitVec.eq_of_toNat_eq e)
  have hlenRoom : s.desc0.length.toNat < (255#8).toNat :=
    Nat.lt_of_le_of_ne (Nat.le_of_lt_succ s.desc0.length.isLt) fun e => hlen (BitVec.eq_of_toNat_eq e)
  refine ⟨_, exec_write_room b hf hroom hlen, ?_, toNat_add_one_of_lt hroom, toNat_add_one_of_lt hlenRoom,
    fun sp i => memRead_after_tx_store sp i s.txBufIdx.toNat b s hroom⟩
  rw [respond_eq, respWord_value]
  rfl

/-- Settles O44: the bytes are staged, and a cursor that counts `CAPACITY` of them makes the next WRITE overflow. -/
theorem writesUpToCapacityAreStaged : Obligations.WritesUpToCapacityAreStaged := by
  unfold Obligations.WritesUpToCapacityAreStaged
  intro addr bs s hf hi hov hle
  obtain ⟨t, ht, h⟩ := execSeq_staged addr bs hf hi hle
  have hn := toNat_length_of_le_capacity hle
  have hidx : t.txBufIdx.toNat = bs.length := by rw [h.txBufIdx, hn]
  have hlen : t.desc0.length.toNat = bs.length := by rw [h.desc0, hn]
  refine ⟨t, ht, hidx, hlen, h.txBufOverflow.trans hov, h.fault.trans hf, h.bytes, fun hfull b => ?_⟩
  exact exec_write_full b (h.fault.trans hf) (BitVec.eq_of_toNat_eq (by rw [hidx, hfull, h.params]))

/-! ### ENDTX -/

/-- The two words of ENDTX (R94, R136). -/
theorem encode_endTx (stop : Bool) : encode (.endTx stop) = if stop then 0x40000800#32 else 0x40000000#32 := by
  cases stop <;> decide

/-- After an overflow ENDTX answers `EDATA` and empties the transmit buffer on the accepted state (R136, R137 (a)). -/
theorem exec_endTx_overflow {s : State} (stop : Bool) (hf : s.fault = 0) (hov : s.txBufOverflow = true) :
    exec (.endTx stop) s = .next (respond s.params.edata false (emptyTx (accept s))) := by
  rw [exec, execEndTx, command_eq_of_noFault _ hf, accept_txBufOverflow, if_pos hov, accept_params]

/-- Settles O21: the overflow arm of ENDTX written out. -/
theorem endTxAfterOverflowReturnsEdata : Obligations.EndTxAfterOverflowReturnsEdata := by
  unfold Obligations.EndTxAfterOverflowReturnsEdata
  intro stop s hf hov
  rw [exec_endTx_overflow stop hf hov, respond_eq, respWord_value]
  rfl

/-- A completed dispatch of one WRITE descriptor writes no byte: it changes its count and the engine's ports and answers. -/
theorem served_of_oneWrite (stop : Bool) (a : EngineAnswer) (rest : List EngineAnswer) (d : EngineDone) {s : State}
    (hc : s.descCount = .one) (hw : s.desc0.flags = .write) :
    served stop a rest d s = { startEngine stop s with
      engineAnswers := rest
      engReadData := (served stop a rest d s).engReadData
      freeDraws := (served stop a rest d s).freeDraws
      desc0 := { s.desc0 with xferred := d.xferred0 } } := by
  have hrx := serveAccesses_noReadView a.accesses { startEngine stop s with engineAnswers := rest }
    (noReadView_of_oneWrite hc hw)
  have htouched := serveAccesses_touched a.accesses { startEngine stop s with engineAnswers := rest }
  rw [onlyEngineTouched, hrx] at htouched
  rw [served, latchXferred_eq, htouched]
  simp [hc]

/-- Settles O22: the served state is `s` but for the count and the ports, and the data handed over are the view's bytes. -/
theorem endTxReturnsEngineStatus : Obligations.EndTxReturnsEngineStatus := by
  unfold Obligations.EndTxReturnsEngineStatus
  refine ⟨encode_endTx, ?_⟩
  intro stop s a rest d hf hov hc hw hspace hbound ha hd hx
  have hview : viewOk s.params s.desc0 = true := by simp [viewOk, hspace, hbound]
  obtain ⟨hlen, hget⟩ := viewData_spec s.desc0 s hbound
  have hserved := served_of_oneWrite stop a rest d (s := accept s) hc hw
  have hdesc : engineDesc (accept s) s.desc0 =
      { address := s.desc0.address, flags := .write, length := s.desc0.length, data := viewData s.desc0 s } := by
    rw [engineDesc, if_pos hw, hw]; rfl
  refine ⟨_, viewData s.desc0 s, exec_endTx_returns stop hf hov hc hview ha hd hx, ?_, hlen, hget, fun sp i => ?_⟩
  · rw [hserved, respond_eq, respWord_value]
    simp [complete, emptyTx, startEngine, activeDescs, hc, hdesc, hov]
  · rw [hserved]
    rfl

/-! ### What the engine's status can reach -/

/-- `s` with other answers of the engine to come. -/
def withAnswers (as : List EngineAnswer) (s : State) : State := { s with engineAnswers := as }

/-- `a` with the status of its `eng_done` replaced by `st`. -/
def EngineAnswer.withStatus (st : Byte) (a : EngineAnswer) : EngineAnswer :=
  { a with done := a.done.map fun d => { d with status := st } }

/-- `t` and `t'` differ at most where command `i` lets the status show: in the response of ENDTX, and in the list of answers
where it was not consumed (R139, R153). -/
def AgreeButStatus (i : Instr) (t t' : State) : Prop :=
  t = { t' with engineAnswers := t.engineAnswers, resp := t.resp } ∧ (i.opcode ≠ .endTx → t'.resp = t.resp)

/-- If the outcome `r` of command `i` is a next state, then `r'` is one that agrees with it but for the status. -/
def StatusBlind (i : Instr) (r r' : Result) : Prop :=
  ∀ t, r = .next t → ∃ t', r' = .next t' ∧ AgreeButStatus i t t'

section
variable {i : Instr}

theorem AgreeButStatus.refl (t : State) : AgreeButStatus i t t := ⟨rfl, fun _ => rfl⟩

/-- ENDTX may respond differently. -/
theorem agreeButStatus_endTx {stop : Bool} (r r' : RespWord) (t : State) :
    AgreeButStatus (.endTx stop) (complete r t) (complete r' t) := ⟨rfl, fun h => absurd rfl h⟩

theorem StatusBlind.next {t t' : State} (h : AgreeButStatus i t t') : StatusBlind i (.next t) (.next t') := by
  rintro _ ⟨rfl⟩
  exact ⟨t', rfl, h⟩

/-- An answer that was not consumed shows in the list of answers alone. -/
theorem StatusBlind.unread (as : List EngineAnswer) {t : State} : StatusBlind i (.next t) (.next (withAnswers as t)) :=
  .next ⟨rfl, fun _ => rfl⟩

theorem StatusBlind.fault {f : Fault} {r' : Result} : StatusBlind i (.fault f) r' := fun _ h => nomatch h

/-- One test in both runs, with outcomes that agree in each arm. -/
theorem StatusBlind.ite {c : Prop} [Decidable c] {x y x' y' : Result} (hx : StatusBlind i x x')
    (hy : StatusBlind i y y') : StatusBlind i (if c then x else y) (if c then x' else y') := by
  by_cases hc : c
  · rwa [if_pos hc, if_pos hc]
  · rwa [if_neg hc, if_neg hc]

/-- A command agrees when its body does; while `fault` is not zero it is refused in both runs (R203). -/
theorem command_statusBlind {body : State → Result} {as : List EngineAnswer} {s : State}
    (hbody : StatusBlind i (body (accept s)) (body (withAnswers as (accept s)))) :
    StatusBlind i (command body s) (command body (withAnswers as s)) :=
  .ite hbody (.unread as)

/-- READ reads no answer of the engine: it tests the cursors and reads RX alone (R172). -/
theorem execRead_statusBlind (as : List EngineAnswer) (s : State) :
    StatusBlind i (execRead s) (execRead (withAnswers as s)) := by
  unfold execRead
  refine command_statusBlind (.ite (.unread as) ?_)
  have hbyte : memRead .rx (withAnswers as (accept s)).rxBufIdx.toNat (withAnswers as (accept s)) =
      memRead .rx (accept s).rxBufIdx.toNat (accept s) := rfl
  rw [hbyte]
  cases memRead .rx (accept s).rxBufIdx.toNat (accept s) with
  | none => exact .fault
  | some v => exact .ite (.unread as) (.unread as)

/-- The counts the contract check looks at are the same whatever the status is (R187). -/
theorem activeDescs_latch_withAnswers (as : List EngineAnswer) (st : Byte) (d : EngineDone) (s : State) :
    activeDescs (latchXferred { d with status := st } (withAnswers as s)) = activeDescs (latchXferred d s) := by
  rw [latchXferred_eq, latchXferred_eq]
  rfl

/-- A dispatching command agrees when its closing lines do: a view out of bounds leaves the answer unread, the contract check
ends both runs alike, and a completed dispatch hands its own status to the closing lines in one state. -/
theorem dispatch_statusBlind (stop : Bool) {s s' : State} {a : EngineAnswer} {rest : List EngineAnswer} {d : EngineDone}
    {st : Byte} {k : Byte → State → State} (ha : s.engineAnswers = a :: rest) (hd : a.done = some d)
    (hs : s' = withAnswers (a.withStatus st :: rest) s) (hk : ∀ x y u, AgreeButStatus i (k x u) (k y u)) :
    StatusBlind i ((dispatch stop s).andThen k) ((dispatch stop s').andThen k) := by
  have ha' : s'.engineAnswers = a.withStatus st :: rest := by rw [hs]; rfl
  have hd' : (a.withStatus st).done = some { d with status := st } := by simp [EngineAnswer.withStatus, hd]
  have hviews : (activeDescs s').all (viewOk s'.params) = (activeDescs s).all (viewOk s.params) := by rw [hs]; rfl
  have hcounts : activeDescs (latchXferred { d with status := st } s') = activeDescs (latchXferred d s) := by
    rw [hs, activeDescs_latch_withAnswers]
  have hserve : serveAccesses (a.withStatus st).accesses { startEngine stop s' with engineAnswers := rest } =
      serveAccesses a.accesses { startEngine stop s with engineAnswers := rest } := by rw [hs]; rfl
  cases hv : (activeDescs s).all (viewOk s.params) with
  | false =>
    rw [dispatch_raises_view stop hv, dispatch_raises_view stop (hviews.trans hv), hs]
    exact .unread _
  | true =>
    cases hc : (activeDescs (latchXferred d s)).all countOk with
    | false =>
      rw [dispatch_raises_xfer stop hv ha hd hc,
        dispatch_raises_xfer stop (hviews.trans hv) ha' hd' (by rw [hcounts, hc]), hserve]
      exact .next (.refl _)
    | true =>
      rw [dispatch_returns stop hv ha hd hc,
        dispatch_returns stop (hviews.trans hv) ha' hd' (by rw [hcounts, hc]), hserve]
      exact .next (hk _ _ _)

end

/-- Only ENDTX, REQ and REQREG read an answer of the engine, and of these only ENDTX hands its status on. -/
theorem exec_statusBlind (i : Instr) {s : State} {a : EngineAnswer} {rest : List EngineAnswer} {d : EngineDone} (st : Byte)
    (ha : s.engineAnswers = a :: rest) (hd : a.done = some d) :
    StatusBlind i (exec i s) (exec i (withAnswers (a.withStatus st :: rest) s)) := by
  cases i with
  | begin addr =>
    simp only [exec, execBegin]
    exact command_statusBlind (.unread _)
  | beginTx addr =>
    simp only [exec, execBeginTx]
    exact command_statusBlind (.unread _)
  | write b =>
    simp only [exec, execWrite]
    refine command_statusBlind (.ite (.unread _) (.ite (.unread _) ?_))
    rw [stageByte_eq, stageByte_eq]
    exact .ite (.unread _) .fault
  | endTx stop =>
    simp only [exec, execEndTx]
    refine command_statusBlind ?_
    exact .ite (.unread _) (dispatch_statusBlind stop ha hd rfl fun _ _ _ => agreeButStatus_endTx _ _ _)
  | req addr num =>
    simp only [exec, execReq]
    refine command_statusBlind ?_
    exact dispatch_statusBlind true ha hd rfl fun _ _ _ => .refl _
  | reqReg addr reg num =>
    simp only [exec, execReqReg]
    refine command_statusBlind ?_
    exact dispatch_statusBlind true ha hd rfl fun _ _ _ => .refl _
  | avail =>
    simp only [exec, execAvail]
    refine command_statusBlind ?_
    exact .ite (.unread _) .fault
  | read => exact execRead_statusBlind _ s

/-- Settles O38: replacing the status is another list of answers, to which a command is blind but for ENDTX's response. -/
theorem statusReachesOnlyEndTxResponse : Obligations.StatusReachesOnlyEndTxResponse := by
  unfold Obligations.StatusReachesOnlyEndTxResponse
  intro i s s' t a rest d st ha hd hs h
  have hs : s' = withAnswers (a.withStatus st :: rest) s := by rw [hs, EngineAnswer.withStatus, hd]; rfl
  obtain ⟨t', ht, heq, hresp⟩ := exec_statusBlind i st ha hd t h
  exact ⟨t', hs ▸ ht, heq, hresp⟩

end Sys2Proof.Machine

/-! The family of the requests: REQ and REQREG, and a register read from REQREG to the last READ. -/

namespace Sys2Proof.Machine

open Sys2Proof

/-! ### The words -/

/-- The word of REQ is its opcode with the count and the address beside it (R94, R151). -/
theorem encode_req (a : DevAddr) (n : Byte) :
    encode (.req a n) = 0x50000000#32 ||| (n.setWidth 32 <<< 20) ||| a.setWidth 32 := by
  have hmatch : 0x50000000#32 = pack Opcode.req.matchFields := Opcode.matchBits_eq .req
  rw [hmatch, num_eq_pack, addr_eq_pack, pack_or_pack, pack_or_pack]
  simp [encode, encodeFields, Opcode.matchFields]

/-- The word of REQREG has the register byte in `DATA` besides (R94, R155). -/
theorem encode_reqReg (a : DevAddr) (r n : Byte) :
    encode (.reqReg a r n) =
      0x60000000#32 ||| (n.setWidth 32 <<< 20) ||| (r.setWidth 32 <<< 12) ||| a.setWidth 32 := by
  have hmatch : 0x60000000#32 = pack Opcode.reqReg.matchFields := Opcode.matchBits_eq .reqReg
  rw [hmatch, num_eq_pack, data_eq_pack, addr_eq_pack, pack_or_pack, pack_or_pack, pack_or_pack]
  simp [encode, encodeFields, Opcode.matchFields]

/-! ### The descriptors of a request -/

/-- A count that is the smaller of `NUM` and `CAPACITY` is the clamped one (R157). -/
theorem eq_clampNum {p : Params} {m num : Byte} (h : m.toNat = min num.toNat p.capacity.toNat) : m = clampNum p num :=
  BitVec.eq_of_toNat_eq (h.trans (clampNum_toNat p num).symm)

section
variable {s : State} {num : Byte}

theorem viewOk_requestDesc (old : Descriptor) (addr : DevAddr)
    (h : s.rxBufIdx.toNat + (clampNum s.params num).toNat ≤ s.params.capacity.toNat) :
    viewOk s.params (requestDesc old addr num s) = true := by
  simp [viewOk, requestDesc, rxView, h]

theorem viewOk_registerDesc (p : Params) (addr : DevAddr) (s : State) : viewOk p (registerDesc addr s) = true := rfl

end

/-! ### A dispatch that completes: what it leaves in the registers and in the buffers -/

section
variable {stop : Bool} {q : State} {a : EngineAnswer} {rest : List EngineAnswer} {d : EngineDone}

theorem served_desc0 : (served stop a rest d q).desc0 = { q.desc0 with xferred := d.xferred0 } := by
  rw [served, latchXferred_eq, serveAccesses_touched a.accesses { startEngine stop q with engineAnswers := rest }]
  rfl

theorem served_desc1 : (served stop a rest d q).desc1 =
    { q.desc1 with xferred := if q.descCount = .two then d.xferred1 else q.desc1.xferred } := by
  rw [served, latchXferred_eq, serveAccesses_touched a.accesses { startEngine stop q with engineAnswers := rest }]
  rfl

theorem served_params : (served stop a rest d q).params = q.params := by rw [served_eq]; rfl
theorem served_rxBufLen : (served stop a rest d q).rxBufLen = q.rxBufLen := by rw [served_eq]; rfl

/-- When `v` is the one active READ descriptor, every byte outside its view reads as before (R70). -/
theorem served_sameBytesOutside {v : Descriptor} (hread : ∀ e ∈ activeDescs q, e.flags = .read → e = v) :
    sameBytesOutside v.view.offset.toNat v.length.toNat q (served stop a rest d q) := by
  refine ⟨fun i => by rw [served_eq]; rfl, fun i hi => ?_⟩
  have houtside : ¬inReadView q i := by
    rintro ⟨e, he, hr, -, hlo, hhi⟩
    rw [hread e he hr] at hlo hhi
    exact hi ⟨hlo, hhi⟩
  refine memRead_rx_congr served_params (by rw [served_eq]; rfl) i ?_
  rw [served, latchXferred_eq]
  exact serveAccesses_outside a.accesses { startEngine stop q with engineAnswers := rest } i houtside

/-- A full answer to the active READ descriptor `k` stands in its view (R71). -/
theorem served_receivedBytesAt {k : Nat} {v : Descriptor} (hk : activeDesc? k q = some v) (hr : v.flags = .read)
    (hrx : v.view.space = .rx) (hbound : v.view.offset.toNat + v.length.toNat ≤ q.params.capacity.toNat) :
    receivedBytesAt a k v.view.offset.toNat v.length.toNat (served stop a rest d q) := by
  intro st x0 x1 bytes ha hlen p hp
  rw [ha, served, latchXferred_eq]
  exact answeredBytesReplaceView { startEngine stop q with engineAnswers := rest } k v bytes hk hr hrx hbound hlen p hp

/-- A request whose dispatch completes, with a count that still fits the receive buffer, closes and responds the new length
(R151, R155). -/
theorem request_returns {count : State → Byte} {closing : State → State} {x : Byte}
    (hviews : (activeDescs q).all (viewOk q.params) = true) (ha : q.engineAnswers = a :: rest) (hd : a.done = some d)
    (hcounts : (activeDescs (latchXferred d q)).all countOk = true) (hx : count (served true a rest d q) = x)
    (hsum : q.rxBufLen.toNat + x.toNat ≤ q.params.capacity.toNat) :
    (dispatch true q).andThen (fun _ t => finishRequest count closing t) =
      .next (respond (q.rxBufLen + x) false
        (closing { served true a rest d q with rxBufLen := q.rxBufLen + x })) := by
  have hacc : accumulate x (served true a rest d q) =
      some { served true a rest d q with rxBufLen := q.rxBufLen + x } := by
    simp only [accumulate, served_rxBufLen, served_params, if_pos hsum]
  rw [dispatch_returns true hviews ha hd hcounts, Dispatched.andThen, ← served, finishRequest, hx, hacc]

end

/-! ### REQ and REQREG with an engine that completes -/

section
variable {s : State} {addr : DevAddr} {reg num : Byte} {a : EngineAnswer} {rest : List EngineAnswer} {d : EngineDone}

/-- REQ, when the engine completes and keeps its contract (R151). -/
theorem exec_req_returns (hf : s.fault = 0) (hc : s.descCount = .one)
    (hview : s.rxBufIdx.toNat + (clampNum s.params num).toNat ≤ s.params.capacity.toNat)
    (ha : s.engineAnswers = a :: rest) (hd : a.done = some d)
    (hx : d.xferred0.toNat ≤ (clampNum s.params num).toNat)
    (hsum : s.rxBufLen.toNat + d.xferred0.toNat ≤ s.params.capacity.toNat) :
    exec (.req addr num) s = .next (respond (s.rxBufLen + d.xferred0) false
      (closeReq { served true a rest d (stageReq addr num (accept s)) with rxBufLen := s.rxBufLen + d.xferred0 })) := by
  have hviews : (activeDescs (stageReq addr num (accept s))).all (viewOk s.params) = true := by
    simpa [activeDescs, hc] using viewOk_requestDesc (s := accept s) s.desc0 addr hview
  have hcounts : (activeDescs (latchXferred d (stageReq addr num (accept s)))).all countOk = true := by
    simpa [latchXferred_eq, activeDescs, hc, countOk, requestDesc] using hx
  rw [exec, execReq, command_eq_of_noFault _ hf]
  exact request_returns hviews ha hd hcounts (by rw [served_desc0]) hsum

/-- REQREG, when the engine completes and keeps its contract for both descriptors (R155). -/
theorem exec_reqReg_returns (hf : s.fault = 0)
    (hview : s.rxBufIdx.toNat + (clampNum s.params num).toNat ≤ s.params.capacity.toNat)
    (ha : s.engineAnswers = a :: rest) (hd : a.done = some d) (hx0 : d.xferred0.toNat ≤ 1)
    (hx1 : d.xferred1.toNat ≤ (clampNum s.params num).toNat)
    (hsum : s.rxBufLen.toNat + d.xferred1.toNat ≤ s.params.capacity.toNat) :
    exec (.reqReg addr reg num) s = .next (respond (s.rxBufLen + d.xferred1) false
      (closeReqReg { served true a rest d (stageReqReg addr reg num (accept s)) with
        rxBufLen := s.rxBufLen + d.xferred1 })) := by
  have hviews : (activeDescs (stageReqReg addr reg num (accept s))).all (viewOk s.params) = true := by
    simpa [activeDescs, viewOk_registerDesc] using viewOk_requestDesc (s := accept s) s.desc1 addr hview
  have hcounts : (activeDescs (latchXferred d (stageReqReg addr reg num (accept s)))).all countOk = true := by
    simpa [latchXferred_eq, activeDescs, countOk, requestDesc, registerDesc] using ⟨hx0, hx1⟩
  rw [exec, execReqReg, command_eq_of_noFault _ hf]
  exact request_returns hviews ha hd hcounts (by rw [served_desc1]; rfl) hsum

end

/-- Settles O23: REQ's one descriptor is the READ view, so the served state gives the registers and the bytes. -/
theorem reqAccumulatesTransferredCount : Obligations.ReqAccumulatesTransferredCount := by
  unfold Obligations.ReqAccumulatesTransferredCount
  refine ⟨encode_req, ?_⟩
  intro addr num m s a rest d hf hc hm hview ha hd hx hsum
  obtain rfl := eq_clampNum hm
  have hactive : activeDescs (stageReq addr num (accept s)) = [requestDesc s.desc0 addr num (accept s)] := by
    simp [activeDescs, hc]
  have hk : activeDesc? 0 (stageReq addr num (accept s)) = some (requestDesc s.desc0 addr num (accept s)) := by
    rw [activeDesc?, hactive]; rfl
  have hshown : (activeDescs (stageReq addr num (accept s))).map (engineDesc (stageReq addr num (accept s))) =
      [{ address := addr, flags := .read, length := clampNum s.params num, data := [] }] := by rw [hactive]; rfl
  refine ⟨_, exec_req_returns hf hc hview ha hd hx hsum, ?_, BitVec.toNat_add_of_lt (by omega), ?_, ?_⟩
  · rw [served_eq, served_desc0, served_desc1, respond_eq, respWord_value]
    simp [closeReq, complete, startEngine, hshown, hc, requestDesc, rxView]
  · exact served_sameBytesOutside (v := requestDesc s.desc0 addr num (accept s)) (by simp [hactive])
  · exact served_receivedBytesAt hk rfl rfl hview

/-- Settles O24: the register write is no READ view, so the served state gives the registers and the bytes. -/
theorem reqRegAccumulatesSecondCount : Obligations.ReqRegAccumulatesSecondCount := by
  unfold Obligations.ReqRegAccumulatesSecondCount
  refine ⟨encode_reqReg, ?_⟩
  intro addr reg num m s a rest d hf hm hview ha hd hx0 hx1 hsum
  obtain rfl := eq_clampNum hm
  have hactive : activeDescs (stageReqReg addr reg num (accept s)) =
      [registerDesc addr (accept s), requestDesc s.desc1 addr num (accept s)] := rfl
  have hread : ∀ e ∈ activeDescs (stageReqReg addr reg num (accept s)), e.flags = .read →
      e = requestDesc s.desc1 addr num (accept s) := by simp [hactive, registerDesc]
  refine ⟨_, exec_reqReg_returns hf hview ha hd hx0 hx1 hsum, ?_, BitVec.toNat_add_of_lt (by omega), ?_, ?_, ?_⟩
  · rw [served_eq, served_desc0, served_desc1, respond_eq, respWord_value]
    rfl
  · rw [served_eq]; rfl
  · exact served_sameBytesOutside hread
  · exact served_receivedBytesAt (v := requestDesc s.desc1 addr num (accept s)) rfl rfl rfl hview

/-! ### Draining the receive buffer -/

/-- While `fault` is zero and the cursor is not past the length AVAIL responds their difference (R170). -/
theorem exec_avail {s : State} (hf : s.fault = 0) (hle : s.rxBufIdx.toNat ≤ s.rxBufLen.toNat) :
    exec .avail s = .next (respond (s.rxBufLen - s.rxBufIdx) false (accept s)) := by
  rw [exec, execAvail, command_eq_of_noFault _ hf, accept_rxBufIdx, accept_rxBufLen, if_pos hle]

/-- READ of a byte: it empties the buffer when that was the last one, and advances the cursor when more are behind (R172). -/
theorem exec_read_byte {s : State} {b : Byte} (hf : s.fault = 0) (hlt : s.rxBufIdx.toNat < s.rxBufLen.toNat)
    (hb : memRead .rx s.rxBufIdx.toNat s = some b) :
    exec .read s = .next (respond b true
      (if s.rxBufIdx.toNat + 1 = s.rxBufLen.toNat then emptyRx (accept s)
       else { accept s with rxBufIdx := s.rxBufIdx + 1 })) := by
  have hempty : rxEmpty (accept s) = false := by
    simpa [rxEmpty] using fun e => Nat.ne_of_lt hlt (congrArg BitVec.toNat e)
  have hb : memRead .rx (accept s).rxBufIdx.toNat (accept s) = some b := hb
  rw [exec, execRead, command_eq_of_noFault _ hf, hempty, hb]
  by_cases hlast : s.rxBufIdx.toNat + 1 = s.rxBufLen.toNat <;> simp [rxLast, hlast]

/-- The bytes of `s` that READ has yet to return are `bs`, in order (R35, R172). -/
structure Unread (bs : List Byte) (s : State) : Prop where
  fault : s.fault = 0
  count : s.rxBufIdx.toNat + bs.length = s.rxBufLen.toNat
  fits : s.rxBufLen.toNat ≤ s.params.capacity.toNat
  bytes : ∀ p, p < bs.length → memRead .rx (s.rxBufIdx.toNat + p) s = bs[p]?

section
variable {s : State} {b : Byte} {bs : List Byte}

/-- AVAIL leaves the unread bytes as they are (R170). -/
theorem Unread.afterAvail (h : Unread bs s) (r : RespWord) : Unread bs (complete r (accept s)) :=
  ⟨h.fault, h.count, h.fits, h.bytes⟩

/-- READ returns the first unread byte and leaves the others unread (R172). -/
theorem Unread.read (h : Unread (b :: bs) s) :
    ∃ t, exec .read s = .next t ∧ t.resp = some (0x01#8 ++ b) ∧ Unread bs t := by
  have hcount := h.count
  rw [List.length_cons] at hcount
  have hb : memRead .rx s.rxBufIdx.toNat s = some b := h.bytes 0 (by simp)
  refine ⟨_, exec_read_byte h.fault (by omega) hb, by simp [respWord_data], ?_⟩
  split_ifs with hlast
  · obtain rfl : bs = [] := List.length_eq_zero_iff.mp (by omega)
    exact ⟨h.fault, rfl, Nat.zero_le _, nofun⟩
  · have hnext : (s.rxBufIdx + 1).toNat = s.rxBufIdx.toNat + 1 := toNat_add_one_of_lt (c := s.rxBufLen) (by omega)
    have hrest : (s.rxBufIdx + 1).toNat + bs.length = s.rxBufLen.toNat := by omega
    have hbytes : ∀ p, p < bs.length → memRead .rx ((s.rxBufIdx + 1).toNat + p) s = bs[p]? := fun p hp => by
      rw [hnext, Nat.add_assoc, Nat.add_comm 1]
      exact h.bytes (p + 1) (Nat.succ_lt_succ hp)
    exact ⟨h.fault, hrest, h.fits, hbytes⟩

/-- As many READs as bytes are unread return them in order (R173 (d)). -/
theorem Unread.reads (h : Unread bs s) (is : List Instr) :
    ∃ t, Unread [] t ∧ respSeq (List.replicate bs.length .read ++ is) s =
      bs.map (fun b => some (0x01#8 ++ b)) ++ respSeq is t := by
  induction bs generalizing s with
  | nil => exact ⟨s, h, rfl⟩
  | cons b bs ih =>
    obtain ⟨u, hu, hresp, h⟩ := h.read
    obtain ⟨t, ht, hrun⟩ := ih h
    refine ⟨t, ht, ?_⟩
    simp [List.replicate_succ, respSeq, hu, hresp, hrun]

end

/-- Settles O46: after REQREG the counted bytes are unread, AVAIL keeps them, and the READs return them. -/
theorem registerReadDrainsEngineBytes : Obligations.RegisterReadDrainsEngineBytes := by
  unfold Obligations.RegisterReadDrainsEngineBytes
  intro addr reg num m st x0 x1 bytes s rest hf hi hl hm hlen hx0 hx1 ha
  obtain ⟨t, ht, heq, -, -, -, hreceived⟩ := reqRegAccumulatesSecondCount.2 addr reg num m s _ rest _ hf hm
    (by simp [hi]; omega) ha rfl hx0 hx1 (by simp [hl]; omega)
  have hidx : t.rxBufIdx = 0 := by rw [heq]; exact hi
  have hcount : t.rxBufLen = x1 := by rw [heq]; simp [hl]
  have hresp : t.resp = some (0x00#8 ++ x1) := by rw [heq]; simp [hl]
  have htake : (bytes.take x1.toNat).length = x1.toNat := List.length_take_of_le (hlen ▸ hx1)
  have hunread : Unread (bytes.take x1.toNat) t := by
    refine ⟨by rw [heq]; exact hf, by simp [hidx, hcount, htake], ?_, fun p hp => ?_⟩
    · have hparams : t.params = s.params := by rw [heq]
      rw [hcount, hparams]; omega
    · rw [List.getElem?_take_of_lt (by omega), hidx, ← hi]
      exact hreceived st x0 x1 bytes rfl hlen p (by omega)
  have havail : exec .avail t = .next (complete (0x00#8 ++ x1) (accept t)) := by
    rw [exec_avail hunread.fault (by simp [hidx]), respond_eq, respWord_value]
    simp [hidx, hcount]
  obtain ⟨u, -, hreads⟩ := (hunread.afterAvail (0x00#8 ++ x1)).reads []
  rw [htake, List.append_nil] at hreads
  simp [respSeq, ht, hresp, havail, hreads]

end Sys2Proof.Machine

/-! The family of the drain: AVAIL, READ, and a receive buffer drained to its last byte and beyond. -/

namespace Sys2Proof.Machine

open Sys2Proof

/-! ### READ of an empty buffer (R172) -/

/-- READ of an empty buffer, its third arm beside the two of `exec_read_byte`: both registers become zero. -/
theorem exec_read_empty {s : State} (hf : s.fault = 0) (he : s.rxBufIdx.toNat = s.rxBufLen.toNat) :
    exec .read s = .next (respond 0 false (emptyRx (accept s))) := by
  have hempty : rxEmpty (accept s) = true := by simpa [rxEmpty] using BitVec.eq_of_toNat_eq he
  rw [exec, execRead, command_eq_of_noFault _ hf, if_pos hempty]

/-- With no byte unread READ returns the sentinel, and no byte is unread after it (R172). -/
theorem Unread.read_sentinel {s : State} (h : Unread [] s) :
    ∃ t, exec .read s = .next t ∧ t.resp = some 0x0000#16 ∧ Unread [] t :=
  ⟨_, exec_read_empty h.fault h.count, rfl, h.fault, rfl, Nat.zero_le _, nofun⟩

/-- However often it is read, a buffer with no byte unread returns the sentinel. -/
theorem Unread.sentinels {s : State} (h : Unread [] s) (k : Nat) :
    respSeq (List.replicate k .read) s = List.replicate k (some 0x0000#16) := by
  induction k generalizing s with
  | zero => rfl
  | succ k ih =>
    obtain ⟨t, ht, hresp, h⟩ := h.read_sentinel
    simp [List.replicate_succ, respSeq, ht, hresp, ih h]

/-! ### The unread bytes of a state -/

/-- The `n` bytes of `rx_buf` from the cursor on. -/
def bytesFromCursor (n : Nat) (s : State) : List Byte := (List.range n).map (fun p => rxByte s (s.rxBufIdx.toNat + p))

@[simp] theorem length_bytesFromCursor (n : Nat) (s : State) : (bytesFromCursor n s).length = n := by
  simp [bytesFromCursor]

/-- They are the unread ones when the cursor lies `n` below the length and the length fits the buffer (R34, R35). -/
theorem unread_bytesFromCursor {s : State} {n : Nat} (hf : s.fault = 0) (hn : s.rxBufIdx.toNat + n = s.rxBufLen.toNat)
    (hfits : s.rxBufLen.toNat ≤ s.params.capacity.toNat) : Unread (bytesFromCursor n s) s := by
  refine ⟨hf, by rw [length_bytesFromCursor, hn], hfits, fun p hp => ?_⟩
  rw [length_bytesFromCursor] at hp
  rw [memRead_rx (by omega)]
  simp [bytesFromCursor, hp]

/-! ### The obligations -/

/-- Settles O25: AVAIL's response is the difference of the registers, which does not wrap. -/
theorem availReturnsUnreadCount : Obligations.AvailReturnsUnreadCount := by
  unfold Obligations.AvailReturnsUnreadCount
  intro s hf hle
  refine ⟨by decide, s.rxBufLen - s.rxBufIdx, BitVec.toNat_sub_of_le hle, ?_⟩
  rw [exec_avail hf hle, respond_eq, respWord_value, complete_accept]

/-- Settles O26, by the three arms of READ; a cursor below the length names a byte of the buffer and does not wrap. -/
theorem readReturnsNextByteOrSentinel : Obligations.ReadReturnsNextByteOrSentinel := by
  unfold Obligations.ReadReturnsNextByteOrSentinel
  intro s hf _ hfits
  refine ⟨by decide, fun hempty => ?_, fun hlt => ?_⟩
  · rw [exec_read_empty hf hempty]
    rfl
  · obtain ⟨v, hv⟩ : ∃ v, memRead .rx s.rxBufIdx.toNat s = some v := exists_memRead (Nat.lt_of_lt_of_le hlt hfits)
    refine ⟨v, hv, fun hlast => ?_, fun hmore => ⟨?_, toNat_add_one_of_lt hlt⟩⟩
    · rw [exec_read_byte hf hlt hv, if_pos hlast, respond_eq, respWord_data]
      rfl
    · rw [exec_read_byte hf hlt hv, if_neg hmore.ne, respond_eq, respWord_data]
      rfl

/-- Settles O43: the first `n` READs return the unread bytes and leave none, and every further one returns the sentinel. -/
theorem drainReturnsBytesInOrder : Obligations.DrainReturnsBytesInOrder := by
  unfold Obligations.DrainReturnsBytesInOrder
  intro s n k hf hn hfits
  obtain ⟨t, hdrained, hreads⟩ := (unread_bytesFromCursor hf hn hfits).reads (List.replicate k .read)
  have hbytes : (bytesFromCursor n s).map (fun v => some (0x01#8 ++ v)) =
      (List.range n).map (fun p => (memRead .rx (s.rxBufIdx.toNat + p) s).map (fun v => 0x01#8 ++ v)) := by
    rw [bytesFromCursor, List.map_map]
    refine List.map_congr_left fun p hp => ?_
    have hp : p < n := List.mem_range.mp hp
    rw [memRead_rx (by omega)]
    rfl
  rw [length_bytesFromCursor, hdrained.sentinels, hbytes] at hreads
  rw [List.replicate_add, hreads]

end Sys2Proof.Machine

/-! The family of the dispatch: the engine that never answers, and what the named properties of an engine (R192) give. -/

namespace Sys2Proof.Machine

open Sys2Proof

/-! ### The bytes written, on the bus -/

/-- Settles O47: the view of the staged descriptor is the bytes written, and the bus gets a prefix of the view. -/
theorem writtenBytesGoOnTheBusInOrder : Obligations.WrittenBytesGoOnTheBusInOrder := by
  unfold Obligations.WrittenBytesGoOnTheBusInOrder
  intro addr bs s a d bus hf hi hc hle hd hx
  obtain ⟨u, hu, h⟩ := execSeq_staged addr bs hf hi hle
  refine ⟨u, hu, fun hbus => ?_⟩
  have hactive : activeDesc? 0 u = some u.desc0 := by simp [activeDesc?, activeDescs, h.descCount, hc]
  have hlen : u.desc0.length.toNat = bs.length := by rw [h.desc0]; exact toNat_length_of_le_capacity hle
  obtain ⟨hprefix, hcount⟩ := hbus 0 u.desc0 hactive (by rw [h.desc0])
  rw [h.viewData_eq hle] at hprefix
  have hcount : d.xferred0.toNat ≤ (bus 0).length := hcount d hd (hlen.symm ▸ hx)
  exact ⟨hprefix, hcount, fun hall => hprefix.eq_of_length_le (hall ▸ hcount)⟩

/-! ### A request is a dispatch of its staged state -/

section
variable {s t : State} {addr : DevAddr} {reg num : Byte}

theorem dispatch_of_req (hf : s.fault = 0) (h : exec (.req addr num) s = .next t) :
    (dispatch true (stageReq addr num (accept s))).andThen
      (fun _ u => finishRequest (fun v => v.desc0.xferred) closeReq u) = .next t :=
  command_of_noFault (body := fun s => (dispatch true (stageReq addr num s)).andThen _) hf h

theorem dispatch_of_reqReg (hf : s.fault = 0) (h : exec (.reqReg addr reg num) s = .next t) :
    (dispatch true (stageReqReg addr reg num (accept s))).andThen
      (fun _ u => finishRequest (fun v => v.desc1.xferred) closeReqReg u) = .next t :=
  command_of_noFault (body := fun s => (dispatch true (stageReqReg addr reg num s)).andThen _) hf h

end

/-! ### The one READ view of a request -/

/-- `v`, at index `k`, is the one READ descriptor that a dispatch of `q` hands over, and its view lies in RX (R151, R155). -/
structure OnlyReadDesc (k : Nat) (v : Descriptor) (q : State) : Prop where
  active : activeDesc? k q = some v
  flags : v.flags = .read
  space : v.view.space = .rx
  only : ∀ e ∈ activeDescs q, e.flags = .read → e = v

section
variable {k : Nat} {v : Descriptor} {q : State}

theorem onlyReadDesc_stageReq (addr : DevAddr) (num : Byte) (hc : q.descCount = .one) :
    OnlyReadDesc 0 (requestDesc q.desc0 addr num q) (stageReq addr num q) := by
  have hactive : activeDescs (stageReq addr num q) = [requestDesc q.desc0 addr num q] := by simp [activeDescs, hc]
  exact ⟨by simp [activeDesc?, hactive], rfl, rfl, by simp [hactive]⟩

theorem onlyReadDesc_stageReqReg (addr : DevAddr) (reg num : Byte) (q : State) :
    OnlyReadDesc 1 (requestDesc q.desc1 addr num q) (stageReqReg addr reg num q) :=
  ⟨rfl, rfl, rfl, by simp [activeDescs, registerDesc]⟩

/-- The engine's accesses change no byte outside the one READ view (R70). -/
theorem OnlyReadDesc.sameBytesOutside (h : OnlyReadDesc k v q) (as : List EngineAccess) :
    sameBytesOutside v.view.offset.toNat v.length.toNat q (serveAccesses as q) := by
  obtain ⟨-, hrx, htx, -⟩ := engineChangesOnlyReadViews as q
  refine ⟨htx, fun i hi => hrx i ?_⟩
  rintro ⟨e, he, hr, -, hlo, hhi⟩
  rw [h.only e he hr] at hlo hhi
  exact hi ⟨hlo, hhi⟩

end

/-! ### An engine that never answers -/

/-- The engine's next answer never completes, or there is none (R189; log 5). -/
def engineSilent (s : State) : Prop :=
  s.engineAnswers = [] ∨ ∃ a rest, s.engineAnswers = a :: rest ∧ a.done = none

/-- The state in which the engine begins with its accesses: started, and its answer, if there is one, taken. -/
def engineStarted (stop : Bool) (s : State) : State :=
  { startEngine stop s with engineAnswers := s.engineAnswers.tail }

section
variable {q s : State} {num : Byte}

/-- A dispatch that the engine does not answer hangs after some accesses, after none when there is no answer (R189). -/
theorem dispatch_hangs (stop : Bool) (hv : (activeDescs q).all (viewOk q.params) = true) (hsilent : engineSilent q) :
    ∃ as, dispatch stop q = .hung (serveAccesses as (engineStarted stop q)) := by
  obtain ha | ⟨a, rest, ha, hd⟩ := hsilent
  · exact ⟨[], by simp [dispatch, hv, runEngine, ha, serveAccesses, engineStarted, startEngine]⟩
  · exact ⟨a.accesses, by simp [dispatch, hv, runEngine, ha, finishDispatch, hd, engineStarted, startEngine]⟩

theorem exec_endTx_hangs (stop : Bool) (hf : s.fault = 0) (hsilent : engineSilent s) (hov : s.txBufOverflow = false)
    (hc : s.descCount = .one) (hv : viewOk s.params s.desc0 = true) :
    ∃ as, exec (.endTx stop) s = .next (serveAccesses as (engineStarted stop (accept s))) := by
  have hviews : (activeDescs (accept s)).all (viewOk s.params) = true := by simp [activeDescs, hc, hv]
  obtain ⟨as, has⟩ := dispatch_hangs stop (q := accept s) hviews hsilent
  rw [exec, execEndTx, command_eq_of_noFault _ hf, accept_txBufOverflow, hov, has]
  exact ⟨as, rfl⟩

theorem exec_req_hangs (addr : DevAddr) (hf : s.fault = 0) (hsilent : engineSilent s) (hc : s.descCount = .one)
    (hview : s.rxBufIdx.toNat + (clampNum s.params num).toNat ≤ s.params.capacity.toNat) :
    ∃ as, exec (.req addr num) s = .next (serveAccesses as (engineStarted true (stageReq addr num (accept s)))) := by
  have hviews : (activeDescs (stageReq addr num (accept s))).all (viewOk s.params) = true := by
    simpa [activeDescs, hc] using viewOk_requestDesc (s := accept s) s.desc0 addr hview
  obtain ⟨as, has⟩ := dispatch_hangs true (q := stageReq addr num (accept s)) hviews hsilent
  rw [exec, execReq, command_eq_of_noFault _ hf, has]
  exact ⟨as, rfl⟩

theorem exec_reqReg_hangs (addr : DevAddr) (reg : Byte) (hf : s.fault = 0) (hsilent : engineSilent s)
    (hview : s.rxBufIdx.toNat + (clampNum s.params num).toNat ≤ s.params.capacity.toNat) :
    ∃ as, exec (.reqReg addr reg num) s =
      .next (serveAccesses as (engineStarted true (stageReqReg addr reg num (accept s)))) := by
  have hviews : (activeDescs (stageReqReg addr reg num (accept s))).all (viewOk s.params) = true := by
    simpa [activeDescs, viewOk_registerDesc] using viewOk_requestDesc (s := accept s) s.desc1 addr hview
  obtain ⟨as, has⟩ := dispatch_hangs true (q := stageReqReg addr reg num (accept s)) hviews hsilent
  rw [exec, execReqReg, command_eq_of_noFault _ hf, has]
  exact ⟨as, rfl⟩

theorem OnlyReadDesc.started {k : Nat} {v : Descriptor} (h : OnlyReadDesc k v q) (stop : Bool) :
    OnlyReadDesc k v (engineStarted stop q) :=
  ⟨h.active, h.flags, h.space, h.only⟩

/-- The engine's accesses leave what it was given on its port. -/
theorem serveAccesses_engGo (as : List EngineAccess) (stop : Bool) (q : State) :
    (serveAccesses as (engineStarted stop q)).engGo ≠ none := by
  rw [serveAccesses_touched as (engineStarted stop q)]
  exact nofun

end

/-- Settles O30: the hung state is the staged one with the engine started and served, and the accesses reach no byte outside
the READ view. -/
theorem unansweredDispatchHangs : Obligations.UnansweredDispatchHangs := by
  unfold Obligations.UnansweredDispatchHangs
  intro s hf hsilent
  refine ⟨fun stop hov hc hw hspace hbound => ?_, fun addr num m hc hm hview => ?_,
    fun addr reg num m hm hview => ?_⟩
  · obtain ⟨as, has⟩ := exec_endTx_hangs stop hf hsilent hov hc (by simp [viewOk, hspace, hbound])
    have hrx := serveAccesses_noReadView as (engineStarted stop (accept s)) (noReadView_of_oneWrite hc hw)
    have htouched := serveAccesses_touched as (engineStarted stop (accept s))
    rw [onlyEngineTouched, hrx] at htouched
    refine ⟨_, has, ?_, serveAccesses_engGo as stop _⟩
    rw [htouched]
    rfl
  · obtain rfl := eq_clampNum hm
    obtain ⟨as, has⟩ := exec_req_hangs addr hf hsilent hc hview
    have hv := (onlyReadDesc_stageReq (q := accept s) addr num hc).started true
    refine ⟨_, has, ?_, serveAccesses_engGo as true _, hv.sameBytesOutside as⟩
    rw [serveAccesses_touched as (engineStarted true (stageReq addr num (accept s)))]
    rfl
  · obtain rfl := eq_clampNum hm
    obtain ⟨as, has⟩ := exec_reqReg_hangs addr reg hf hsilent hview
    have hv := (onlyReadDesc_stageReqReg addr reg num (accept s)).started true
    refine ⟨_, has, ?_, serveAccesses_engGo as true _, hv.sameBytesOutside as⟩
    rw [serveAccesses_touched as (engineStarted true (stageReqReg addr reg num (accept s)))]
    rfl

/-! ### An engine that completes -/

section
variable {stop : Bool} {q t : State} {a : EngineAnswer} {rest : List EngineAnswer}

/-- When the next answer completes, a command that dispatches ends with a fault or with its closing lines, and not in the
hang (R180, R189). -/
theorem andThen_busy_of_terminates {k : Byte → State → State} (h : (dispatch stop q).andThen k = .next t)
    (ha : q.engineAnswers = a :: rest) (hterm : a.terminates) (hk : ∀ st u, (k st u).busy = false) : t.busy = false := by
  obtain ⟨-, e⟩ | ⟨-, ⟨hnil, -⟩ | ⟨a', rest', u, ha', -, hend⟩⟩ := dispatch_cases stop q
  · rw [e] at h; cases h; rfl
  · rw [ha] at hnil; cases hnil
  · obtain ⟨rfl, -⟩ := List.cons.inj (ha.symm.trans ha')
    obtain ⟨hnone, -⟩ | ⟨d, -, -, e⟩ | ⟨d, -, -, e⟩ := hend
    · exact absurd hnone hterm
    · rw [e] at h; cases h; exact hk _ _
    · rw [e] at h; cases h; rfl

theorem finishRequest_busy (count : State → Byte) (closing : State → State) (s : State) :
    (finishRequest count closing s).busy = false := by
  obtain ⟨-, e⟩ | e := finishRequest_cases count closing s <;> rw [e] <;> rfl

end

/-- Settles O36: a command ends hung only by its dispatch, and the dispatch gets its answer. -/
theorem terminatingEngineNeverHangs : Obligations.TerminatingEngineNeverHangs := by
  unfold Obligations.TerminatingEngineNeverHangs
  intro i s t a rest ha hterm e
  cases exec_ends e with
  | value => rfl
  | faulted => rfl
  | hung _ hf _ _ hop =>
    cases i with
    | endTx stop =>
      have e : execEndTx stop s = .next t := e
      have e := command_of_noFault hf e
      split_ifs at e with hov
      · cases e; rfl
      · exact andThen_busy_of_terminates e ha hterm fun _ _ => rfl
    | req addr num =>
      exact andThen_busy_of_terminates (dispatch_of_req hf e) ha hterm fun _ => finishRequest_busy _ _
    | reqReg addr reg num =>
      exact andThen_busy_of_terminates (dispatch_of_reqReg hf e) ha hterm fun _ => finishRequest_busy _ _
    | begin | beginTx | write | avail | read => simp [Instr.opcode] at hop

/-! ### An engine that counts within the length -/

/-- Counts within the lengths meet the check of R187. -/
theorem countsOk_of_countsWithinLength {a : EngineAnswer} {d : EngineDone} {s : State} (h : a.countsWithinLength s)
    (hd : a.done = some d) : (activeDescs (latchXferred d s)).all countOk = true := by
  obtain ⟨h0, h1⟩ := h d hd
  rw [latchXferred_eq]
  cases hc : s.descCount with
  | one => simpa [activeDescs, countOk, hc] using h0
  | two => simpa [activeDescs, countOk, hc] using ⟨h0, h1 hc⟩

/-- Settles O37: a dispatch raises VIEW or XFER, and XFER needs a count that fails the check. -/
theorem countsWithinLengthNeverRaiseXfer : Obligations.CountsWithinLengthNeverRaiseXfer := by
  unfold Obligations.CountsWithinLengthNeverRaiseXfer
  intro stop s u a rest ha hcounts h
  cases hv : (activeDescs s).all (viewOk s.params) with
  | false =>
    cases (dispatch_raises_view stop hv).symm.trans h
    exact ⟨rfl, rfl⟩
  | true =>
    cases hd : a.done with
    | none =>
      obtain ⟨as, has⟩ := dispatch_hangs stop hv (.inr ⟨a, rest, ha, hd⟩)
      cases has.symm.trans h
    | some d => cases (dispatch_returns stop hv ha hd (countsOk_of_countsWithinLength hcounts hd)).symm.trans h

/-! ### An engine that writes a prefix only -/

section
variable {k : Nat} {v : Descriptor} {w q t : State} {a : EngineAnswer} {rest : List EngineAnswer} {d : EngineDone}

/-- Under `EngineWritesPrefixOnly` RX is kept from the reported count on: inside the view by the property, and past its end
by R70. -/
theorem OnlyReadDesc.memRead_of_prefixOnly (h : OnlyReadDesc k v w) (hprefix : a.writesPrefixOnly w)
    (hd : a.done = some d) {i : Nat} (hi : v.view.offset.toNat + (d.xferred k).toNat ≤ i) :
    memRead .rx i (serveAccesses a.accesses w) = memRead .rx i w := by
  by_cases hin : i < v.view.offset.toNat + v.length.toNat
  · obtain ⟨p, rfl⟩ := Nat.exists_eq_add_of_le ((Nat.le_add_right _ _).trans hi)
    have hbyte := hprefix d hd k v h.active h.flags p (by omega) (by omega)
    rwa [h.space] at hbyte
  · exact (h.sameBytesOutside a.accesses).2 i fun hview => hin hview.2

/-- What the engine does to RX does not depend on the ports. -/
theorem memRead_rx_served (stop : Bool) (hq : samePastPorts w q) (i : Nat) :
    memRead .rx i (served stop a rest d q) = memRead .rx i (serveAccesses a.accesses w) := by
  have hw := serveAccesses_touched a.accesses w
  have hrx := serveAccesses_rxBuf_congr a.accesses (s := w) (t := { startEngine stop q with engineAnswers := rest })
    (by rw [hq]; rfl) (by rw [hq]; rfl) (by rw [hq]; rfl)
  refine memRead_rx_congr ?_ ?_ i ?_
  · rw [served_params, hw.params, hq]
  · rw [served_eq, hw.ramEpoch, hq]; rfl
  · rw [served, latchXferred_eq, ← hrx]

theorem raiseFault_fault_ne_zero (c : Cause) (u : State) : (raiseFault c u).fault ≠ 0 := fun h =>
  Cause.bit_ne_zero c (BitVec.or_eq_zero_iff.mp h).2

/-- A request that ends without a fault, when the engine completes, leaves RX as the engine served it. -/
theorem request_memRead_served {count : State → Byte} {closing : State → State}
    (h : (dispatch true q).andThen (fun _ u => finishRequest count closing u) = .next t)
    (ha : q.engineAnswers = a :: rest) (hd : a.done = some d) (hf : t.fault = 0) {i : Nat}
    (hclose : ∀ u, memRead .rx i (closing u) = memRead .rx i u) :
    memRead .rx i t = memRead .rx i (served true a rest d q) := by
  have nofault {c : Cause} {u : State} : t ≠ raiseFault c u := fun e => raiseFault_fault_ne_zero c u (e ▸ hf)
  cases hv : (activeDescs q).all (viewOk q.params) with
  | false =>
    rw [dispatch_raises_view true hv] at h
    exact absurd (Host.Outcome.next.inj h).symm nofault
  | true =>
    cases hc : (activeDescs (latchXferred d q)).all countOk with
    | false =>
      rw [dispatch_raises_xfer true hv ha hd hc] at h
      exact absurd (Host.Outcome.next.inj h).symm nofault
    | true =>
      rw [dispatch_returns true hv ha hd hc] at h
      have h := (Host.Outcome.next.inj h).symm
      obtain ⟨-, e⟩ | e := finishRequest_cases count closing (served true a rest d q)
      · rw [h.trans e]
        exact hclose _
      · exact absurd (h.trans e) nofault

end

/-- Settles O35: a request without a fault leaves RX as the engine served it, and the engine kept the rest of the view. -/
theorem prefixOnlyEngineKeepsRestOfView : Obligations.PrefixOnlyEngineKeepsRestOfView := by
  unfold Obligations.PrefixOnlyEngineKeepsRestOfView
  intro addr num s t a rest d hf ha hd
  refine ⟨fun hc hprefix e hft i hi => ?_, fun reg hprefix e hft i hi => ?_⟩
  · have hports : samePastPorts (stageReq addr num s) (stageReq addr num (accept s)) := rfl
    rw [request_memRead_served (dispatch_of_req hf e) ha hd hft fun _ => rfl, memRead_rx_served true hports]
    exact (onlyReadDesc_stageReq addr num hc).memRead_of_prefixOnly hprefix hd hi
  · have hports : samePastPorts (stageReqReg addr reg num s) (stageReqReg addr reg num (accept s)) := rfl
    rw [request_memRead_served (dispatch_of_reqReg hf e) ha hd hft fun _ => rfl, memRead_rx_served true hports]
    exact (onlyReadDesc_stageReqReg addr reg num s).memRead_of_prefixOnly hprefix hd hi

end Sys2Proof.Machine

/-! The family of the exceptions: illegal words, the faulted machine, and what raises each fault. -/

namespace Sys2Proof.Machine

open Sys2Proof

/-! ### The status port -/

/-- A register is not zero exactly when one of its bits is set. -/
theorem bitVec_ne_zero_iff_exists_bit {n : Nat} (x : BitVec n) : x ≠ 0 ↔ ∃ k, k < n ∧ x.getLsbD k = true := by
  constructor
  · intro hne
    by_contra hnone
    refine hne (BitVec.eq_of_getLsbD_eq fun k hk => ?_)
    simpa using fun h => hnone ⟨k, hk, h⟩
  · rintro ⟨k, -, hk⟩ rfl
    simp at hk

/-- Settles O16: the port copies the registers, and the OR of the bits of `fault` is its test against zero. -/
theorem statusPortCopiesRegisters : Obligations.StatusPortCopiesRegisters := by
  unfold Obligations.StatusPortCopiesRegisters
  intro s
  exact ⟨rfl, rfl, rfl, rfl, bne_iff_ne.trans (bitVec_ne_zero_iff_exists_bit s.fault)⟩

/-! ### Illegal words, and the faulted machine -/

/-- At a ready sequencer an illegal word changes the ports alone (R200). -/
theorem refuseIllegal_eq {s : State} (hb : s.busy = false) :
    refuseIllegal s = { s with resp := some 0x8000#16, engGo := none, engReadData := [] } := by
  rw [refuseIllegal, respondIllegal_eq, complete_accept]
  simp [hb, respWord_illegal]

/-- Settles O9: a taken word that does not decode is refused as illegal. -/
theorem illegalWordChangesNothing : Obligations.IllegalWordChangesNothing := by
  unfold Obligations.IllegalWordChangesNothing
  intro s w rest e hb hi hd
  rw [step_of_word hb hi, runWord, hd]
  exact congrArg Host.Outcome.next (refuseIllegal_eq (s := { s with hostInputs := rest }) hb)

/-- A command in the faulted machine is refused (R203). `exec_of_fault` is this for a command that goes on. -/
theorem exec_refused {s : State} (i : Instr) (hf : s.fault ≠ 0) :
    exec i s = .next (complete 0x4000#16 (accept s)) := by
  cases i <;> exact if_neg hf

/-- An asserted reset is taken in every state (R232). -/
theorem step_of_reset {s : State} {rest : List HostInput} (hi : s.hostInputs = .reset :: rest) :
    step s = .next (hardReset { s with hostInputs := rest }) := by
  simp [step, takeInput, hi]

/-- Settles O13, by what a step can be: it holds the state, resets it, or takes a word, which is refused. -/
theorem faultedSequencerRefusesEveryCommand : Obligations.FaultedSequencerRefusesEveryCommand := by
  unfold Obligations.FaultedSequencerRefusesEveryCommand
  refine ⟨fun i s hf => ?_, fun s t hf hnoreset e => ?_, fun s t rest hi e => ?_⟩
  · rw [exec_refused i hf, complete_accept]
  · obtain rfl | ⟨rest, hi, -⟩ | ⟨w, rest, -, -, e⟩ := step_cases e
    · rfl
    · exact absurd hi (hnoreset rest)
    · obtain ⟨-, rfl⟩ | ⟨i, -, e⟩ := runWord_cases e
      · rfl
      · rw [exec_of_fault (s := { s with hostInputs := rest }) hf e]; rfl
  · cases (step_of_reset hi).symm.trans e
    rfl

/-! ### A dispatching command is a dispatch and its closing lines -/

section
variable {s : State}

theorem exec_endTx_eq (stop : Bool) (hf : s.fault = 0) (hov : s.txBufOverflow = false) :
    exec (.endTx stop) s =
      (dispatch stop (accept s)).andThen (fun st u => respond st false (emptyTx u)) := by
  have hov : ¬(accept s).txBufOverflow = true := by simp [hov]
  rw [exec, execEndTx, command_eq_of_noFault _ hf, if_neg hov]

theorem exec_req_eq (addr : DevAddr) (num : Byte) (hf : s.fault = 0) :
    exec (.req addr num) s = (dispatch true (stageReq addr num (accept s))).andThen
      (fun _ u => finishRequest (fun v => v.desc0.xferred) closeReq u) := by
  rw [exec, execReq, command_eq_of_noFault _ hf]

theorem exec_reqReg_eq (addr : DevAddr) (reg num : Byte) (hf : s.fault = 0) :
    exec (.reqReg addr reg num) s = (dispatch true (stageReqReg addr reg num (accept s))).andThen
      (fun _ u => finishRequest (fun v => v.desc1.xferred) closeReqReg u) := by
  rw [exec, execReqReg, command_eq_of_noFault _ hf]

end

/-! ### Which command can raise which fault -/

/-- The bit of cause `c` can be set by a command of row `o` (R201). -/
def Cause.RaisedBy (o : Opcode) : Cause → Prop
  | .view => o = .endTx ∨ o = .req ∨ o = .reqReg
  | .xfer => o = .endTx ∨ o = .req ∨ o = .reqReg
  | .rxlen => o = .req ∨ o = .reqReg
  | .len => o = .write

/-- `fault` is zero, or the bit of one cause that a command of row `o` can raise (R201, R202). -/
def FaultBy (o : Opcode) (t : State) : Prop := t.fault = 0 ∨ ∃ c : Cause, c.RaisedBy o ∧ t.fault = c.bit

section
variable {o : Opcode} {s q t u : State}

/-- A fault raised while `fault` is zero sets its one bit, and completes the command with the fault response (R202). -/
theorem raiseFault_eq_of_noFault (c : Cause) (hf : u.fault = 0) :
    raiseFault c u = complete 0x4000#16 { u with fault := c.bit } := by
  have hbit : u.fault ||| c.bit = c.bit := by simp [hf]
  rw [raiseFault, hbit]
  rfl

theorem faultBy_raiseFault {c : Cause} (hc : c.RaisedBy o) (hf : u.fault = 0) : FaultBy o (raiseFault c u) :=
  .inr ⟨c, hc, by rw [raiseFault_eq_of_noFault c hf]; rfl⟩

/-- A dispatching command faults by its dispatch or by its closing lines. -/
theorem faultBy_andThen {stop : Bool} {k : Byte → State → State} (ho : o = .endTx ∨ o = .req ∨ o = .reqReg)
    (h : (dispatch stop q).andThen k = .next t) (hf : q.fault = 0) (hk : ∀ st u, u.fault = 0 → FaultBy o (k st u)) :
    FaultBy o t := by
  obtain ⟨u, hu, -, -, -, hend⟩ := dispatch_frame stop q
  have hfu : u.fault = 0 := by rw [hu]; exact hf
  obtain ⟨st, e⟩ | e | ⟨c, hc, e⟩ := hend <;> rw [e] at h <;> cases h
  · exact hk st u hfu
  · exact .inl hfu
  · obtain rfl | rfl := hc <;> exact faultBy_raiseFault ho hfu

theorem faultBy_finishRequest (count : State → Byte) {closing : State → State} (ho : o = .req ∨ o = .reqReg)
    (hclose : ∀ v, (closing v).fault = v.fault) (hf : u.fault = 0) : FaultBy o (finishRequest count closing u) := by
  obtain ⟨-, e⟩ | e := finishRequest_cases count closing u <;> rw [e]
  · exact .inl ((hclose _).trans hf)
  · exact faultBy_raiseFault ho hf

/-- Every command that goes on from `fault` zero leaves no bit set, or one it is named for. -/
theorem exec_faultBy {i : Instr} (hf : s.fault = 0) (e : exec i s = .next t) : FaultBy i.opcode t := by
  cases i with
  | begin addr => rw [execBegin_next hf e]; exact .inl hf
  | beginTx addr => rw [execBeginTx_next hf e]; exact .inl hf
  | write b =>
    obtain ⟨-, rfl⟩ | ⟨-, -, rfl⟩ | ⟨-, -, -, rfl⟩ := execWrite_cases hf e
    · exact .inl hf
    · exact faultBy_raiseFault rfl hf
    · exact .inl hf
  | endTx stop =>
    cases hov : s.txBufOverflow with
    | true => cases (exec_endTx_overflow stop hf hov).symm.trans e; exact .inl hf
    | false => exact faultBy_andThen (.inl rfl) ((exec_endTx_eq stop hf hov).symm.trans e) hf fun _ _ hu => .inl hu
  | req addr num =>
    exact faultBy_andThen (.inr (.inl rfl)) (dispatch_of_req hf e) hf
      fun _ _ => faultBy_finishRequest _ (.inl rfl) closeReq_fault
  | reqReg addr reg num =>
    exact faultBy_andThen (.inr (.inr rfl)) (dispatch_of_reqReg hf e) hf
      fun _ _ => faultBy_finishRequest _ (.inr rfl) closeReqReg_fault
  | avail => rw [(execAvail_next hf e).2]; exact .inl hf
  | read =>
    obtain ⟨-, rfl⟩ | ⟨-, v, -, ⟨-, rfl⟩ | ⟨-, rfl⟩⟩ := execRead_cases hf e <;> exact .inl hf

end

/-- Settles O31: the bit set is that of a cause the command can raise. -/
theorem onlyNamedCommandsRaiseEachFault : Obligations.OnlyNamedCommandsRaiseEachFault := by
  unfold Obligations.OnlyNamedCommandsRaiseEachFault
  intro i s t hf e
  obtain h0 | ⟨c, hc, hbit⟩ := exec_faultBy hf e
  · exact .inl h0
  · cases c with
    | view => exact .inr (.inl ⟨hbit, hc⟩)
    | xfer => exact .inr (.inr (.inl ⟨hbit, hc⟩))
    | rxlen => exact .inr (.inr (.inr (.inl ⟨hbit, hc⟩)))
    | len => exact .inr (.inr (.inr (.inr ⟨hbit, hc⟩)))

/-! ### Every command of a state of the invariant goes on -/

/-- A dispatching command goes on however its dispatch ends (R180, R189). -/
theorem andThen_goesOn (r : Dispatched) (k : Byte → State → State) : ∃ t, r.andThen k = .next t := by
  cases r <;> exact ⟨_, rfl⟩

section
variable {s : State}

theorem write_goesOn (b : Byte) (h : Inv s) (hf : s.fault = 0) : ∃ t, exec (.write b) s = .next t := by
  by_cases hfull : s.txBufIdx = s.params.capacity
  · exact ⟨_, exec_write_full b hf hfull⟩
  · have hroom : s.txBufIdx.toNat < s.params.capacity.toNat :=
      Nat.lt_of_le_of_ne h.txIdx fun e => hfull (BitVec.eq_of_toNat_eq e)
    by_cases hlen : s.desc0.length = 255
    · exact ⟨_, exec_write_len b hf hfull hlen⟩
    · exact ⟨_, exec_write_room b hf hroom hlen⟩

theorem endTx_goesOn (stop : Bool) (hf : s.fault = 0) : ∃ t, exec (.endTx stop) s = .next t := by
  cases hov : s.txBufOverflow with
  | true => exact ⟨_, exec_endTx_overflow stop hf hov⟩
  | false => rw [exec_endTx_eq stop hf hov]; exact andThen_goesOn _ _

theorem read_goesOn (h : Inv s) (hf : s.fault = 0) : ∃ t, exec .read s = .next t := by
  obtain hempty | hlt := Nat.eq_or_lt_of_le h.rxIdx
  · exact ⟨_, exec_read_empty hf hempty⟩
  · have hin : s.rxBufIdx.toNat < bound s.params .rx := Nat.lt_of_lt_of_le hlt h.rxLen
    obtain ⟨v, hv⟩ := exists_memRead hin
    exact ⟨_, exec_read_byte hf hlt hv⟩

/-- The model's own stops need a cursor past its bound, which the invariant excludes (log 8). -/
theorem exec_goesOn (i : Instr) (h : Inv s) : ∃ t, exec i s = .next t := by
  by_cases hf : s.fault = 0
  · cases i with
    | begin addr => exact ⟨_, exec_begin addr hf⟩
    | beginTx addr => exact ⟨_, exec_beginTx addr hf⟩
    | write b => exact write_goesOn b h hf
    | endTx stop => exact endTx_goesOn stop hf
    | req addr num => rw [exec_req_eq addr num hf]; exact andThen_goesOn _ _
    | reqReg addr reg num => rw [exec_reqReg_eq addr reg num hf]; exact andThen_goesOn _ _
    | avail => exact ⟨_, exec_avail hf h.rxIdx⟩
    | read => exact read_goesOn h hf
  · exact ⟨_, exec_refused i hf⟩

end

/-- Settles O42: a step holds the state, resets it, refuses an illegal word, or runs a command that goes on. -/
theorem invStatesAlwaysStep : Obligations.InvStatesAlwaysStep := by
  unfold Obligations.InvStatesAlwaysStep
  intro s h
  obtain e | ⟨rest, hi, -⟩ | ⟨w, rest, hi, hb, -⟩ := takeInput_cases s
  · exact ⟨s, by rw [step, e]⟩
  · exact ⟨_, step_of_reset hi⟩
  · rw [step_of_word hb hi, runWord]
    cases decode w with
    | error e => exact ⟨_, rfl⟩
    | ok i => exact exec_goesOn i (inv_withHostInputs h rest)

/-! ### The checks of a dispatch, as tests of the registers -/

section
variable {s : State}

theorem viewsOk_endTx (hc : s.descCount = .one) :
    (activeDescs (accept s)).all (viewOk s.params) = viewOk s.params s.desc0 := by
  simp [activeDescs, hc]

/-- A view that has the reserved space, or runs past its space's bound, fails the check (R182). -/
theorem viewOk_eq_false {p : Params} {d : Descriptor}
    (h : d.view.space = .reserved ∨ bound p d.view.space < d.view.offset.toNat + d.length.toNat) :
    viewOk p d = false := by
  obtain h | h := h
  · simp [viewOk, h]
  · simp [viewOk, Nat.not_le.mpr h]

/-- The check of a request's READ view, for which `viewOk_requestDesc` is the case that passes (R182). -/
theorem viewOk_requestDesc_eq (old : Descriptor) (addr : DevAddr) (num : Byte) (s : State) :
    viewOk s.params (requestDesc old addr num s) =
      decide (s.rxBufIdx.toNat + (clampNum s.params num).toNat ≤ s.params.capacity.toNat) :=
  Bool.true_and _

theorem viewsOk_stageReq (addr : DevAddr) (num : Byte) (hc : s.descCount = .one) :
    (activeDescs (stageReq addr num (accept s))).all (viewOk s.params) =
      decide (s.rxBufIdx.toNat + (clampNum s.params num).toNat ≤ s.params.capacity.toNat) := by
  simp only [activeDescs, stageReq_descCount, accept_descCount, hc, List.all_cons, List.all_nil, Bool.and_true]
  exact viewOk_requestDesc_eq s.desc0 addr num (accept s)

theorem viewsOk_stageReqReg (addr : DevAddr) (reg num : Byte) (s : State) :
    (activeDescs (stageReqReg addr reg num (accept s))).all (viewOk s.params) =
      decide (s.rxBufIdx.toNat + (clampNum s.params num).toNat ≤ s.params.capacity.toNat) := by
  simp only [activeDescs, stageReqReg_descCount, List.all_cons, List.all_nil, Bool.and_true]
  exact viewOk_requestDesc_eq s.desc1 addr num (accept s)

theorem countsOk_endTx (d : EngineDone) (hc : s.descCount = .one) :
    (activeDescs (latchXferred d (accept s))).all countOk = decide (d.xferred0.toNat ≤ s.desc0.length.toNat) := by
  simp [latchXferred_eq, activeDescs, hc, countOk]

theorem countsOk_stageReq (addr : DevAddr) (num : Byte) (d : EngineDone) (hc : s.descCount = .one) :
    (activeDescs (latchXferred d (stageReq addr num (accept s)))).all countOk =
      decide (d.xferred0.toNat ≤ (clampNum s.params num).toNat) := by
  simp [latchXferred_eq, activeDescs, hc, countOk, requestDesc]

theorem countsOk_stageReqReg (addr : DevAddr) (reg num : Byte) (d : EngineDone) (s : State) :
    (activeDescs (latchXferred d (stageReqReg addr reg num (accept s)))).all countOk =
      decide (d.xferred0.toNat ≤ 1 ∧ d.xferred1.toNat ≤ (clampNum s.params num).toNat) := by
  simp [latchXferred_eq, activeDescs, countOk, requestDesc, registerDesc]

end

/-! ### A view out of bounds -/

/-- A dispatching command whose dispatch raises VIEW ends there, in the state its dispatch began in (R182, R202). -/
theorem andThen_raises_view {q : State} (stop : Bool) (k : Byte → State → State)
    (hv : (activeDescs q).all (viewOk q.params) = false) (hf : q.fault = 0) :
    (dispatch stop q).andThen k = .next (complete 0x4000#16 { q with fault := 0b0001#4 }) := by
  rw [dispatch_raises_view stop hv, raiseFault_eq_of_noFault .view hf]
  rfl

/-- Settles O27: the staged state fails the check of the views, so nothing but the fault follows the staging. -/
theorem viewOutOfBoundsStartsNoEngine : Obligations.ViewOutOfBoundsStartsNoEngine := by
  unfold Obligations.ViewOutOfBoundsStartsNoEngine
  refine ⟨fun stop s hf hov hc hbad => ?_, fun addr num m s hf hc hm hbad => ?_,
    fun addr reg num m s hf hm hbad => ?_⟩
  · have hviews := (viewsOk_endTx hc).trans (viewOk_eq_false hbad)
    rw [exec_endTx_eq stop hf hov, andThen_raises_view stop _ hviews hf]
    rfl
  · obtain rfl := eq_clampNum hm
    have hviews := (viewsOk_stageReq addr num hc).trans (decide_eq_false (Nat.not_le.mpr hbad))
    rw [exec_req_eq addr num hf, andThen_raises_view true _ hviews hf]
    rfl
  · obtain rfl := eq_clampNum hm
    have hviews := (viewsOk_stageReqReg addr reg num s).trans (decide_eq_false (Nat.not_le.mpr hbad))
    rw [exec_reqReg_eq addr reg num hf, andThen_raises_view true _ hviews hf]
    rfl

/-! ### A fault after the engine was served -/

section
variable {stop : Bool} {k : Nat} {v : Descriptor} {q s : State} {a : EngineAnswer} {rest : List EngineAnswer}
  {d : EngineDone}

/-- A count above a length raises XFER in the served state; the closing lines do not run (R187, R202). -/
theorem andThen_raises_xfer (stop : Bool) (k : Byte → State → State)
    (hv : (activeDescs q).all (viewOk q.params) = true) (ha : q.engineAnswers = a :: rest) (hd : a.done = some d)
    (hc : (activeDescs (latchXferred d q)).all countOk = false) :
    (dispatch stop q).andThen k = .next (raiseFault .xfer (served stop a rest d q)) := by
  rw [dispatch_raises_xfer stop hv ha hd hc]
  rfl

/-- A sum above the capacity raises RXLEN in the served state; the closing lines do not run (R207). -/
theorem request_raises_rxlen {count : State → Byte} (closing : State → State)
    (hv : (activeDescs q).all (viewOk q.params) = true) (ha : q.engineAnswers = a :: rest) (hd : a.done = some d)
    (hc : (activeDescs (latchXferred d q)).all countOk = true)
    (hsum : q.params.capacity.toNat < q.rxBufLen.toNat + (count (served true a rest d q)).toNat) :
    (dispatch true q).andThen (fun _ u => finishRequest count closing u) =
      .next (raiseFault .rxlen (served true a rest d q)) := by
  have hacc : accumulate (count (served true a rest d q)) (served true a rest d q) = none := by
    rw [accumulate, served_rxBufLen, served_params, if_neg (Nat.not_le.mpr hsum)]
  rw [dispatch_returns true hv ha hd hc, Dispatched.andThen, ← served, finishRequest, hacc]

theorem raised_served_engGo (c : Cause) : (raiseFault c (served stop a rest d q)).engGo ≠ none := by
  rw [raiseFault_engGo, served_eq]
  exact nofun

/-- What the engine did stays when a fault follows it: it was started, it kept every byte outside the one READ view, and a
full answer stands in that view (R70, R71, R202). -/
theorem raised_served_bytes (c : Cause) (h : OnlyReadDesc k v q)
    (hbound : v.view.offset.toNat + v.length.toNat ≤ q.params.capacity.toNat) :
    (raiseFault c (served stop a rest d q)).engGo ≠ none ∧
    sameBytesOutside v.view.offset.toNat v.length.toNat q (raiseFault c (served stop a rest d q)) ∧
    receivedBytesAt a k v.view.offset.toNat v.length.toNat (raiseFault c (served stop a rest d q)) :=
  ⟨raised_served_engGo c, served_sameBytesOutside h.only, served_receivedBytesAt h.active h.flags h.space hbound⟩

/-- The registers of a REQ that faults after the engine was served: `rx_buf_len` and the READ flag stay (R205, R207). -/
theorem raised_served_req (c : Cause) (addr : DevAddr) (num : Byte) (hf : s.fault = 0) (hc : s.descCount = .one)
    {t : State}
    (ht : t = raiseFault c (served true a rest d (stageReq addr num (accept s)))) :
    t = { s with fault := c.bit,
                 desc0 := { address := addr, view := { space := .rx, offset := s.rxBufIdx },
                            length := clampNum s.params num, xferred := d.xferred0, flags := .read },
                 rxBuf := t.rxBuf, engineAnswers := rest,
                 busy := false, resp := some 0x4000#16, engGo := t.engGo, engReadData := t.engReadData,
                 freeDraws := t.freeDraws } := by
  have hfu : (served true a rest d (stageReq addr num (accept s))).fault = 0 := by rw [served_eq]; exact hf
  rw [ht, raiseFault_eq_of_noFault c hfu, served_eq, served_desc0, served_desc1]
  simp [complete, startEngine, hc, requestDesc, rxView]

/-- The registers of a REQREG that faults after the engine was served: `desc_count` is 2 besides (R205, R207). -/
theorem raised_served_reqReg (c : Cause) (addr : DevAddr) (reg num : Byte) (hf : s.fault = 0) {t : State}
    (ht : t = raiseFault c (served true a rest d (stageReqReg addr reg num (accept s)))) :
    t = { s with fault := c.bit, regScalar := reg, descCount := .two,
                 desc0 := { address := addr, view := { space := .reg, offset := 0 }, length := 1,
                            xferred := d.xferred0, flags := .write },
                 desc1 := { address := addr, view := { space := .rx, offset := s.rxBufIdx },
                            length := clampNum s.params num, xferred := d.xferred1, flags := .read },
                 rxBuf := t.rxBuf, engineAnswers := rest,
                 busy := false, resp := some 0x4000#16, engGo := t.engGo, engReadData := t.engReadData,
                 freeDraws := t.freeDraws } := by
  have hfu : (served true a rest d (stageReqReg addr reg num (accept s))).fault = 0 := by rw [served_eq]; exact hf
  rw [ht, raiseFault_eq_of_noFault c hfu, served_eq, served_desc0, served_desc1]
  rfl

end

/-- Settles O28: the latched counts fail the contract check, so the fault is raised in the served state. -/
theorem countAboveLengthRaisesXfer : Obligations.CountAboveLengthRaisesXfer := by
  unfold Obligations.CountAboveLengthRaisesXfer
  refine ⟨fun stop s a rest d hf hov hc hw hspace hbound ha hd hx => ?_,
    fun addr num m s a rest d hf hc hm hview ha hd hx => ?_,
    fun addr reg num m s a rest d hf hm hview ha hd hx => ?_⟩
  · have hview : viewOk s.params s.desc0 = true := by simp [viewOk, hspace, hbound]
    have hviews := (viewsOk_endTx hc).trans hview
    have hcounts := (countsOk_endTx d hc).trans (decide_eq_false (Nat.not_le.mpr hx))
    have hserved := served_of_oneWrite stop a rest d (s := accept s) hc hw
    have hfu : (served stop a rest d (accept s)).fault = 0 := by rw [hserved]; exact hf
    refine ⟨_, (exec_endTx_eq stop hf hov).trans (andThen_raises_xfer stop _ hviews ha hd hcounts), ?_,
      raised_served_engGo .xfer⟩
    rw [raiseFault_eq_of_noFault .xfer hfu, hserved]
    rfl
  · obtain rfl := eq_clampNum hm
    have hviews := (viewsOk_stageReq addr num hc).trans (decide_eq_true hview)
    have hcounts := (countsOk_stageReq addr num d hc).trans (decide_eq_false (Nat.not_le.mpr hx))
    exact ⟨_, (exec_req_eq addr num hf).trans (andThen_raises_xfer true _ hviews ha hd hcounts),
      raised_served_req .xfer addr num hf hc rfl,
      raised_served_bytes .xfer (onlyReadDesc_stageReq (q := accept s) addr num hc) hview⟩
  · obtain rfl := eq_clampNum hm
    have hviews := (viewsOk_stageReqReg addr reg num s).trans (decide_eq_true hview)
    have hcounts := (countsOk_stageReqReg addr reg num d s).trans (decide_eq_false (by omega))
    exact ⟨_, (exec_reqReg_eq addr reg num hf).trans (andThen_raises_xfer true _ hviews ha hd hcounts),
      raised_served_reqReg .xfer addr reg num hf rfl,
      raised_served_bytes .xfer (onlyReadDesc_stageReqReg addr reg num (accept s)) hview⟩

/-- Settles O29: the dispatch returns the served state, and the sum with the latched count does not fit. -/
theorem receiveLengthAboveCapacityRaisesRxlen : Obligations.ReceiveLengthAboveCapacityRaisesRxlen := by
  unfold Obligations.ReceiveLengthAboveCapacityRaisesRxlen
  refine ⟨fun addr num m s a rest d hf hc hm hview ha hd hx hsum => ?_,
    fun addr reg num m s a rest d hf hm hview ha hd hx0 hx1 hsum => ?_⟩
  · obtain rfl := eq_clampNum hm
    have hviews := (viewsOk_stageReq addr num hc).trans (decide_eq_true hview)
    have hcounts := (countsOk_stageReq addr num d hc).trans (decide_eq_true hx)
    have hraise := request_raises_rxlen (count := fun u => u.desc0.xferred) closeReq hviews ha hd hcounts
      (by rw [served_desc0]; exact hsum)
    exact ⟨_, (exec_req_eq addr num hf).trans hraise, raised_served_req .rxlen addr num hf hc rfl,
      raised_served_bytes .rxlen (onlyReadDesc_stageReq (q := accept s) addr num hc) hview⟩
  · obtain rfl := eq_clampNum hm
    have hviews := (viewsOk_stageReqReg addr reg num s).trans (decide_eq_true hview)
    have hcounts := (countsOk_stageReqReg addr reg num d s).trans (decide_eq_true ⟨hx0, hx1⟩)
    have hraise := request_raises_rxlen (count := fun u => u.desc1.xferred) closeReqReg hviews ha hd hcounts
      (by rw [served_desc1]; exact hsum)
    exact ⟨_, (exec_reqReg_eq addr reg num hf).trans hraise, raised_served_reqReg .rxlen addr reg num hf rfl,
      raised_served_bytes .rxlen (onlyReadDesc_stageReqReg addr reg num (accept s)) hview⟩

end Sys2Proof.Machine

/-! ### The hardware reset (R230, R232) -/

namespace Sys2Proof.Machine

open Sys2Proof

/-- Settles O11: a reset is taken whatever the state, and `hardReset` builds the reset state of the same instance, whose
buffers hold no written byte. -/
theorem resetIsTakenInEveryState : Obligations.ResetIsTakenInEveryState := by
  unfold Obligations.ResetIsTakenInEveryState
  intro s rest hi
  exact ⟨hardReset { s with hostInputs := rest }, step_of_reset hi, rfl, rfl, rfl,
    rfl, rfl, rfl, rfl, rfl, rfl, rfl, rfl, rfl, rfl, rfl, rfl, rfl, fun _ => ⟨rfl, rfl⟩⟩

end Sys2Proof.Machine
